-- ==== Sys2Proof/Word.lean ====
section
/-! DEFINITION. The words of the core: bytes of the two streams and 16-bit load addresses (spec R7, R18, R34). -/

namespace Sys2Proof

/-- A byte of the payload source or of the output stream (R7: 8 bits). -/
abbrev Byte := BitVec 8

/-- A load address of the receiver (R6: ADDR_BITS = 16). -/
abbrev Addr := BitVec 16

end Sys2Proof
end

