-- ==== Sys2Proof/Syntax.lean ====
section
/-! DEFINITION. The syntax: the operations of the command channel (spec R54), the reserved codes (R56), the wire byte
classes (R45 to R50), one constructor per row of spec/opcode_table.json, and the records they are decoded from. -/

namespace Sys2Proof

/-- The bank selector (R18: "2 or 3 only"). -/
inductive Bank where
  | two
  | three
deriving DecidableEq, Repr

/-- The end marker of a block (R48), an uninterpreted enumeration: what a receiver does on each value is not the
core's concern. -/
inductive EndMarker where
  | endProgramDefault
  | endDataBlock
  | endProgramWithStart
  | endProgram
  | endProgramThenBasic
deriving DecidableEq, Repr

/-- Where on the output stream a byte stands: the offset inside a block (R44) or inside a markup sequence (R49, R50).
Two wire byte classes may share a value, so only the position tells them apart (R53). -/
inductive WireSlot where
  | startMarker0
  | startMarker1
  | headerB1
  | headerB2
  | headerB3
  | symbol
  | endMarker
  | startSeq (index : Fin 10)
  | stepSeq (index : Fin 6)
deriving DecidableEq, Repr

/-- The typed operand fields carried beside an operation code (R54, R55). A field that an operation does not use is
ignored by it. -/
structure Ports where
  /-- `byte` of PK.FEED. -/
  byte : BitVec 8 := 0
  /-- `address` of AE.ENCODE and BW.WRITE_BLOCK. -/
  address : BitVec 16 := 0
  /-- `bank_sel`: 0 selects bank 2, 1 selects bank 3. -/
  bankSel : BitVec 1 := 0
  /-- `len` of BW.WRITE_BLOCK. -/
  len : Nat := 0
  /-- `end_marker` of BW.WRITE_BLOCK. -/
  endMarker : BitVec 8 := 0
  /-- `row` of the markup operations, PS.SPLIT and CV.CONVERT. -/
  row : BitVec 5 := 0
  /-- `col` of PS.STEP_BLOCK. -/
  col : BitVec 6 := 0
  /-- `start_address` of PS.SPLIT and CV.CONVERT. -/
  startAddress : BitVec 16 := 0
  /-- `size` of PS.SPLIT and CV.CONVERT. -/
  size : Nat := 0
  /-- `row_valid` of CV.CONVERT. -/
  rowValid : BitVec 1 := 0
  /-- `preload` of CV.CONVERT. -/
  preload : List Byte := []
deriving DecidableEq, Repr

/-- What the command channel delivers: a command record `⟨op, operands⟩` (R54), or a bare byte of the output stream
with the position it stands for. The second form is the model's handle on the WIRE rows of the opcode table
(DESIGN CHOICE, log entry 5: the spec has no command for a bare `Emit`). -/
inductive Record where
  | command (op : BitVec 4) (ports : Ports)
  | wire (slot : WireSlot) (byte : Byte)
deriving DecidableEq, Repr

/-- One constructor per row of spec/opcode_table.json. Operands have the widths of R54 and R55; the values R56 leaves
without meaning are representable and are refused where the operation checks them. -/
inductive Instr where
  -- BitPacker (R60 to R64)
  | pkReset
  | pkFeed (byte : Byte)
  | pkExtract
  | pkDrain
  | pkFlush
  -- AddressEncoder (R69)
  | aeEncode (address : Addr) (bank : Bank)
  -- BlockWriter (R72)
  | bwWriteBlock (address : Addr) (bank : Bank) (len : Nat) (endMarker : Byte)
  -- ProgressSplitter (R75, R76, R79)
  | psStartBlock (row : BitVec 5)
  | psStepBlock (row : BitVec 5) (col : BitVec 6)
  | psSplit (startAddress : Addr) (bank : Bank) (size : Nat) (row : BitVec 5)
  -- Converter (R82)
  | cvConvert (startAddress : Addr) (bank : Bank) (size : Nat) (rowValid : Bool) (row : BitVec 5) (preload : List Byte)
  -- reserved command codes (R56)
  | reservedB
  | reservedC
  | reservedD
  | reservedE
  | reservedF
  -- framing bytes of a block (R45 to R48)
  | wireStartMarker0
  | wireStartMarker1
  | wireHeaderB1 (bank : Bank) (digit : BitVec 4)
  | wireHeaderB2 (digit : BitVec 6)
  | wireHeaderB3 (digit : BitVec 6)
  | wireSymbol (symbol : BitVec 6)
  | wireEndProgramDefault
  | wireEndDataBlock
  | wireEndProgramWithStart
  | wireEndProgram
  | wireEndProgramThenBasic
  -- progress start sequence (R49)
  | wireStartSeq0
  | wireStartSeq1 (row : BitVec 5)
  | wireStartSeq2
  | wireStartSeq3
  | wireStartSeq4
  | wireStartSeq5
  | wireStartSeq6
  | wireStartSeq7
  | wireStartSeq8 (row : BitVec 5)
  | wireStartSeq9
  -- progress step sequence (R50)
  | wireStepSeq0
  | wireStepSeq1 (row : BitVec 5)
  | wireStepSeq2 (col : BitVec 6)
  | wireStepSeq3
  | wireStepSeq4
  | wireStepSeq5
deriving DecidableEq, Repr

end Sys2Proof
end

