-- ==== Sys2Proof/WellFormed.lean ====
section
/-! DEFINITION. Which instructions are legal encodings (spec R56). A row outside 1 to 24 in an operation is a legal
encoding with a defined outcome (ArgumentError, R87), so it is well-formed; the values R56 refuses are not. -/

namespace Sys2Proof

/-- `row` is 1 to 24 (R56, R87). -/
def rowInRange (row : BitVec 5) : Bool :=
  decide (1 ≤ row.toNat) && decide (row.toNat ≤ 24)

/-- `col` is 1 to 40 (R56, R76). -/
def colInRange (col : BitVec 6) : Bool :=
  decide (1 ≤ col.toNat) && decide (col.toNat ≤ 40)

/-- `end_marker` is one of the five values of R48 (R56). -/
def endMarkerLegal (b : Byte) : Bool :=
  b == 0x21#8 || b == 0x22#8 || b == 0x28#8 || b == 0x29#8 || b == 0x2A#8

/-- The checks of R56 on an instruction's fields. -/
def Instr.wellFormed : Instr → Bool
  | .pkReset => true
  | .pkFeed _ => true
  | .pkExtract => true
  | .pkDrain => true
  | .pkFlush => true
  | .aeEncode _ _ => true
  | .bwWriteBlock _ _ _ endMarker => endMarkerLegal endMarker
  | .psStartBlock _ => true
  | .psStepBlock _ col => colInRange col
  | .psSplit _ _ _ _ => true
  | .cvConvert _ _ _ _ _ _ => true
  | .reservedB => false
  | .reservedC => false
  | .reservedD => false
  | .reservedE => false
  | .reservedF => false
  | .wireStartMarker0 => true
  | .wireStartMarker1 => true
  | .wireHeaderB1 _ _ => true
  | .wireHeaderB2 _ => true
  | .wireHeaderB3 _ => true
  | .wireSymbol _ => true
  | .wireEndProgramDefault => true
  | .wireEndDataBlock => true
  | .wireEndProgramWithStart => true
  | .wireEndProgram => true
  | .wireEndProgramThenBasic => true
  | .wireStartSeq0 => true
  | .wireStartSeq1 row => rowInRange row
  | .wireStartSeq2 => true
  | .wireStartSeq3 => true
  | .wireStartSeq4 => true
  | .wireStartSeq5 => true
  | .wireStartSeq6 => true
  | .wireStartSeq7 => true
  | .wireStartSeq8 row => rowInRange row
  | .wireStartSeq9 => true
  | .wireStepSeq0 => true
  | .wireStepSeq1 row => rowInRange row
  | .wireStepSeq2 col => colInRange col
  | .wireStepSeq3 => true
  | .wireStepSeq4 => true
  | .wireStepSeq5 => true

end Sys2Proof
end

