-- ==== Sys2Proof/Decode.lean ====
section
/-! DEFINITION. From a record of the command channel to an instruction and back (spec R45 to R50, R54 to R56).
Decoding is total: a command record always names a row of the opcode table (R54, R56), and a wire byte that its
position does not allow is rejected by name. -/

namespace Sys2Proof

/-- Why a record is rejected. -/
inductive Reject where
  /-- The byte is none of the values the position allows (R56, last row: never emitted). Safe: the model stops. -/
  | wireByteOutsideClass (slot : WireSlot) (byte : Byte)
deriving DecidableEq, Repr

/-- `bank_sel` to bank: `bank = 2 + bank_sel` (R55). -/
def decodeBank (sel : BitVec 1) : Bank :=
  if sel = 1#1 then .three else .two

/-- Bank to `bank_sel` (R55). -/
def encodeBank : Bank → BitVec 1
  | .two => 0#1
  | .three => 1#1

/-- `row_valid` to a truth value (R54). -/
def decodeFlag (b : BitVec 1) : Bool :=
  decide (b = 1#1)

/-- A truth value to `row_valid` (R54). -/
def encodeFlag (b : Bool) : BitVec 1 :=
  if b then 1#1 else 0#1

/-- The operation a command record names, with the operands of its row of R54. Every 4-bit code has a row: 0x0 to 0xA
are operations, 0xB to 0xF are the reserved codes of R56. -/
def decodeCommand (op : BitVec 4) (p : Ports) : Instr :=
  match op.toNat with
  | 0x0 => .pkReset
  | 0x1 => .pkFeed p.byte
  | 0x2 => .pkExtract
  | 0x3 => .pkDrain
  | 0x4 => .pkFlush
  | 0x5 => .aeEncode p.address (decodeBank p.bankSel)
  | 0x6 => .bwWriteBlock p.address (decodeBank p.bankSel) p.len p.endMarker
  | 0x7 => .psStartBlock p.row
  | 0x8 => .psStepBlock p.row p.col
  | 0x9 => .psSplit p.startAddress (decodeBank p.bankSel) p.size p.row
  | 0xA => .cvConvert p.startAddress (decodeBank p.bankSel) p.size (decodeFlag p.rowValid) p.row p.preload
  | 0xB => .reservedB
  | 0xC => .reservedC
  | 0xD => .reservedD
  | 0xE => .reservedE
  | _ => .reservedF

/-- A fixed byte of a class, or nothing. -/
def fixedByte (value byte : Byte) (i : Instr) : Option Instr :=
  if byte = value then some i else none

/-- A byte `010rrrrr` whose field is a row of 1 to 24 (R49, R50), or nothing. -/
def rowByte? (byte : Byte) (i : BitVec 5 → Instr) : Option Instr :=
  if byte.extractLsb' 5 3 = 0b010#3 ∧ rowInRange (byte.extractLsb' 0 5) = true then
    some (i (byte.extractLsb' 0 5))
  else none

/-- A byte `01xxxxxx`, or nothing. -/
def taggedByte? (byte : Byte) (i : BitVec 6 → Instr) : Option Instr :=
  if byte.extractLsb' 6 2 = 0b01#2 then some (i (byte.extractLsb' 0 6)) else none

/-- The class of a byte at a position of a block (R44 to R48). -/
def decodeBlockByte (slot : WireSlot) (byte : Byte) : Option Instr :=
  match slot with
  | .startMarker0 => fixedByte 0x1F#8 byte .wireStartMarker0
  | .startMarker1 => fixedByte 0x3C#8 byte .wireStartMarker1
  | .headerB1 =>
    if byte.extractLsb' 5 3 = 0b010#3 then
      some (.wireHeaderB1 (decodeBank (byte.extractLsb' 4 1)) (byte.extractLsb' 0 4))
    else none
  | .headerB2 => taggedByte? byte .wireHeaderB2
  | .headerB3 => taggedByte? byte .wireHeaderB3
  | .symbol => taggedByte? byte .wireSymbol
  | .endMarker =>
    if byte = 0x21#8 then some .wireEndProgramDefault
    else if byte = 0x22#8 then some .wireEndDataBlock
    else if byte = 0x28#8 then some .wireEndProgramWithStart
    else if byte = 0x29#8 then some .wireEndProgram
    else if byte = 0x2A#8 then some .wireEndProgramThenBasic
    else none
  | _ => none

/-- The class of a byte at an index of the progress start sequence (R49). -/
def decodeStartSeqByte (index : Nat) (byte : Byte) : Option Instr :=
  match index with
  | 0 => fixedByte 0x1F#8 byte .wireStartSeq0
  | 1 => rowByte? byte .wireStartSeq1
  | 2 => fixedByte 0x41#8 byte .wireStartSeq2
  | 3 => fixedByte 0x1D#8 byte .wireStartSeq3
  | 4 => fixedByte 0x51#8 byte .wireStartSeq4
  | 5 => fixedByte 0x12#8 byte .wireStartSeq5
  | 6 => fixedByte 0x67#8 byte .wireStartSeq6
  | 7 => fixedByte 0x1F#8 byte .wireStartSeq7
  | 8 => rowByte? byte .wireStartSeq8
  | 9 => fixedByte 0x41#8 byte .wireStartSeq9
  | _ => none

/-- The class of a byte at an index of the progress step sequence (R50). -/
def decodeStepSeqByte (index : Nat) (byte : Byte) : Option Instr :=
  match index with
  | 0 => fixedByte 0x1F#8 byte .wireStepSeq0
  | 1 => rowByte? byte .wireStepSeq1
  | 2 =>
    if byte.extractLsb' 6 2 = 0b01#2 ∧ colInRange (byte.extractLsb' 0 6) = true then
      some (.wireStepSeq2 (byte.extractLsb' 0 6))
    else none
  | 3 => fixedByte 0x1D#8 byte .wireStepSeq3
  | 4 => fixedByte 0x82#8 byte .wireStepSeq4
  | 5 => fixedByte 0x7F#8 byte .wireStepSeq5
  | _ => none

/-- The class of a byte at a position of the output stream (R44 to R50, R53). -/
def decodeWire (slot : WireSlot) (byte : Byte) : Option Instr :=
  match slot with
  | .startSeq index => decodeStartSeqByte index.val byte
  | .stepSeq index => decodeStepSeqByte index.val byte
  | _ => decodeBlockByte slot byte

/-- Decode one record of the command channel. -/
def decode : Record → Except Reject Instr
  | .command op ports => .ok (decodeCommand op ports)
  | .wire slot byte =>
    match decodeWire slot byte with
    | some i => .ok i
    | none => .error (.wireByteOutsideClass slot byte)

/-- The record of an instruction, written from the rows of R54 and from the bit layouts of R45 to R50. The ports an
operation does not use carry zero. -/
def encode : Instr → Record
  | .pkReset => .command 0x0#4 {}
  | .pkFeed byte => .command 0x1#4 { byte := byte }
  | .pkExtract => .command 0x2#4 {}
  | .pkDrain => .command 0x3#4 {}
  | .pkFlush => .command 0x4#4 {}
  | .aeEncode address bank => .command 0x5#4 { address := address, bankSel := encodeBank bank }
  | .bwWriteBlock address bank len endMarker =>
    .command 0x6#4 { address := address, bankSel := encodeBank bank, len := len, endMarker := endMarker }
  | .psStartBlock row => .command 0x7#4 { row := row }
  | .psStepBlock row col => .command 0x8#4 { row := row, col := col }
  | .psSplit startAddress bank size row =>
    .command 0x9#4 { startAddress := startAddress, bankSel := encodeBank bank, size := size, row := row }
  | .cvConvert startAddress bank size rowValid row preload =>
    .command 0xA#4 { startAddress := startAddress, bankSel := encodeBank bank, size := size,
                     rowValid := encodeFlag rowValid, row := row, preload := preload }
  | .reservedB => .command 0xB#4 {}
  | .reservedC => .command 0xC#4 {}
  | .reservedD => .command 0xD#4 {}
  | .reservedE => .command 0xE#4 {}
  | .reservedF => .command 0xF#4 {}
  | .wireStartMarker0 => .wire .startMarker0 0b00011111#8
  | .wireStartMarker1 => .wire .startMarker1 0b00111100#8
  | .wireHeaderB1 bank digit => .wire .headerB1 (0b010#3 ++ encodeBank bank ++ digit)
  | .wireHeaderB2 digit => .wire .headerB2 (0b01#2 ++ digit)
  | .wireHeaderB3 digit => .wire .headerB3 (0b01#2 ++ digit)
  | .wireSymbol symbol => .wire .symbol (0b01#2 ++ symbol)
  | .wireEndProgramDefault => .wire .endMarker 0b00100001#8
  | .wireEndDataBlock => .wire .endMarker 0b00100010#8
  | .wireEndProgramWithStart => .wire .endMarker 0b00101000#8
  | .wireEndProgram => .wire .endMarker 0b00101001#8
  | .wireEndProgramThenBasic => .wire .endMarker 0b00101010#8
  | .wireStartSeq0 => .wire (.startSeq 0) 0b00011111#8
  | .wireStartSeq1 row => .wire (.startSeq 1) (0b010#3 ++ row)
  | .wireStartSeq2 => .wire (.startSeq 2) 0b01000001#8
  | .wireStartSeq3 => .wire (.startSeq 3) 0b00011101#8
  | .wireStartSeq4 => .wire (.startSeq 4) 0b01010001#8
  | .wireStartSeq5 => .wire (.startSeq 5) 0b00010010#8
  | .wireStartSeq6 => .wire (.startSeq 6) 0b01100111#8
  | .wireStartSeq7 => .wire (.startSeq 7) 0b00011111#8
  | .wireStartSeq8 row => .wire (.startSeq 8) (0b010#3 ++ row)
  | .wireStartSeq9 => .wire (.startSeq 9) 0b01000001#8
  | .wireStepSeq0 => .wire (.stepSeq 0) 0b00011111#8
  | .wireStepSeq1 row => .wire (.stepSeq 1) (0b010#3 ++ row)
  | .wireStepSeq2 col => .wire (.stepSeq 2) (0b01#2 ++ col)
  | .wireStepSeq3 => .wire (.stepSeq 3) 0b00011101#8
  | .wireStepSeq4 => .wire (.stepSeq 4) 0b10000010#8
  | .wireStepSeq5 => .wire (.stepSeq 5) 0b01111111#8

/-- The positions in the order in which a table word without a position is tried: the classes of one fixed byte first,
in table order, then the classes with fields (log entry 6). -/
def wireSlotOrder : List WireSlot :=
  [.startMarker0, .startMarker1, .endMarker,
   .startSeq 0, .startSeq 2, .startSeq 3, .startSeq 4, .startSeq 5, .startSeq 6, .startSeq 7, .startSeq 9,
   .stepSeq 0, .stepSeq 3, .stepSeq 4, .stepSeq 5,
   .headerB1, .headerB2, .headerB3, .symbol, .startSeq 1, .startSeq 8, .stepSeq 1, .stepSeq 2]

/-- The record of a word of spec/opcode_table.json. A command row is the 4-bit selector with every operand field zero
(the operands are no bits of the word, R54); a wire row is the byte itself, at the first position of `wireSlotOrder`
that allows it. A word of more than a byte is no row. -/
def tableRecord (nbits w : Nat) : Option Record :=
  let v := w % 2 ^ nbits
  if v < 0x10 then some (.command (BitVec.ofNat 4 v) {})
  else if v < 0x100 then
    (wireSlotOrder.find? fun slot => (decodeWire slot (BitVec.ofNat 8 v)).isSome).map
      fun slot => .wire slot (BitVec.ofNat 8 v)
  else none

/-- The instruction the decoder reads from a word of spec/opcode_table.json. -/
def decodeTableWord (nbits w : Nat) : Option Instr :=
  match tableRecord nbits w with
  | some r =>
    match decode r with
    | .ok i => some i
    | .error _ => none
  | none => none

end Sys2Proof
end

