-- ==== Sys2Proof/Machine/State.lean ====
section
/-! DEFINITION. The state of the core (spec R10), with the input channels of the model (commands, the answers of the
sink and the source, a request for hardware reset), and its value after hardware reset (R26). Plain data. -/

namespace Sys2Proof.Machine

/-- The exceptions of R86. -/
inductive Exception where
  /-- Code 2, raised at operation entry (R87). -/
  | argumentError
  /-- Code 4, raised by an `Emit` or a `MemRead` (R88). -/
  | ioError
deriving DecidableEq, Repr

/-- What the environment does at one access to a stream: the `Emit` or `MemRead` is accepted or fails (R88), or a
hardware reset stops the running operation before the access is made (R90; log entry 9). -/
inductive Answer where
  | accepted
  | failed
  | reset
deriving DecidableEq, Repr

/-- The state of one core. The first fourteen fields are the elements of R10; the last four are the model's own input
channels. -/
structure State where
  /-- R11: the accumulator, bits not yet emitted in its low `bitCounter` bits, stale bits above. -/
  bits : Nat
  /-- R12: how many low-order bits of `bits` are pending. -/
  bitCounter : Nat
  /-- R18: the load address operand. -/
  startAddr : Addr
  /-- R18: the bank operand. -/
  bank : Bank
  /-- R18: the payload size operand. -/
  size : Nat
  /-- R18: whether a progress row is configured. -/
  rowValid : Bool
  /-- R18: the progress row. -/
  row : BitVec 5
  /-- R19: the running address of the splitter. -/
  curAddr : Addr
  /-- R19: the bytes of one full data block. -/
  blockSize : Nat
  /-- R19: the index of the data block being written, 40 once the loop is left. -/
  blkIdx : Nat
  /-- R20: the index of the next unread payload byte. -/
  rdPtr : Nat
  /-- R21: the output stream, oldest byte first. -/
  out : List Byte
  /-- R22: the bytes the payload source really holds. A parameter of the run that no operation changes. -/
  pay : List Byte
  /-- R23: the exception that stopped the core, if any. -/
  fault : Option Exception
  /-- The command channel: the records offered to the core, oldest first (R5; log entry 4). -/
  commands : List Record
  /-- What happens at the coming `Emit`s, in order; when the list is used up every `Emit` is accepted
  (R88, R90; log entry 7). -/
  sinkAnswers : List Answer
  /-- What happens at the coming `MemRead`s, in order; when the list is used up every read is answered
  (R88, R90; log entry 7). -/
  sourceAnswers : List Answer
  /-- A hardware reset is requested (R90, R98; log entry 9): the next step performs it, and until then no operation
  goes on. -/
  resetRequest : Bool
deriving DecidableEq, Repr

/-- Reasons a step can stop with a fault. There is none: every exception of this core is taken into a next state that
records it (R92), and a core stopped by an exception stays in that state (R93). -/
inductive Fault
deriving DecidableEq, Repr

/-- Reasons a step is refused. Each one is a case to which the spec gives no meaning at all (R56, R62, R87); stopping
there is safe. -/
inductive Refusal where
  /-- An instruction without a meaning in this model, by its table mnemonic. No arm of `exec` raises it. Safe. -/
  | notModelled (mnemonic : String)
  /-- A reserved command code 0xB to 0xF (R56), raised by the RESERVED rows. Safe. -/
  | reservedCommandCode (op : BitVec 4)
  /-- PK.EXTRACT with `bit_counter = 0`, whose modulus would be 0 (R62, R103). Safe. -/
  | extractWithNothingPending
  /-- BW.WRITE_BLOCK with an end marker outside the five values (R56, R72). Safe. -/
  | endMarkerReserved (endMarker : Byte)
  /-- PS.STEP_BLOCK with a column outside 1 to 40 (R56, R76). Safe. -/
  | columnOutOfRange (col : BitVec 6)
  /-- A markup wire byte whose row or column field is outside its range: the core never emits it (R49 to R51, R56).
  Raised by the WIRE rows that have such a field. Safe. -/
  | wireFieldOutOfRange (value : Nat)
  /-- PK.FEED of a finite realisation with more than five bits pending (R102). Raised by `finiteExec` only. Safe. -/
  | feedWithSymbolPending
  /-- A payload size above SIZE_MAX of a realisation (R6). Raised by `finiteExec` only. Safe. -/
  | sizeAboveMaximum (size : Nat)
  /-- A record that decodes to no instruction, raised by the step. Safe. -/
  | rejectedRecord (reason : Reject)
deriving DecidableEq, Repr

/-- The core right after hardware reset (R26, R98). The operand and working registers are unspecified there; their
values below are log entries 2 and 3. The payload source and the channels are empty (log entries 1, 4, 7, 9). -/
def State.reset : State where
  bits := 0
  bitCounter := 0
  startAddr := 0#16
  bank := .two
  size := 0
  rowValid := false
  row := 0#5
  curAddr := 0#16
  blockSize := 1
  blkIdx := 0
  rdPtr := 0
  out := []
  pay := []
  fault := none
  commands := []
  sinkAnswers := []
  sourceAnswers := []
  resetRequest := false

end Sys2Proof.Machine
end

