-- ==== Sys2Proof/Machine/Constants.lean ====
section
/-! DEFINITION. The byte values and codes the spec fixes (R6, R45, R48, R55, R86). -/

namespace Sys2Proof.Machine

/-- START0: the first byte of a block (R45). -/
def start0 : Byte := 0x1F#8

/-- START1: the second byte of a block (R45). -/
def start1 : Byte := 0x3C#8

/-- The byte of an end marker (R48). -/
def endMarkerByte : EndMarker → Byte
  | .endProgramDefault => 0x21#8
  | .endDataBlock => 0x22#8
  | .endProgramWithStart => 0x28#8
  | .endProgram => 0x29#8
  | .endProgramThenBasic => 0x2A#8

/-- The end marker of a byte, or nothing for the other 251 values (R48, R56). -/
def endMarkerOfByte (b : Byte) : Option EndMarker :=
  if b = 0x21#8 then some .endProgramDefault
  else if b = 0x22#8 then some .endDataBlock
  else if b = 0x28#8 then some .endProgramWithStart
  else if b = 0x29#8 then some .endProgram
  else if b = 0x2A#8 then some .endProgramThenBasic
  else none

/-- The code of an exception (R86). -/
def exceptionCode : Exception → Nat
  | .argumentError => 2
  | .ioError => 4

/-- The number of a bank (R55: `bank = 2 + bank_sel`). -/
def bankNumber : Bank → Nat
  | .two => 2
  | .three => 3

end Sys2Proof.Machine
end

