-- ==== Sys2Proof/Machine/Flags.lean ====
section
/-! DEFINITION. The core stores no status flags (spec R17). These are the conditions R17 lists, each computed from its
operands at the moment of the test, and the block-size arithmetic that two of them read (R77, R78). -/

namespace Sys2Proof.Machine

/-- The PK.DRAIN condition `bit_counter > 5` (R17, R63). -/
def symbolReady (bitCounter : Nat) : Bool :=
  decide (5 < bitCounter)

/-- The PK.FLUSH condition `bit_counter > 0` (R17, R64). -/
def bitsPending (bitCounter : Nat) : Bool :=
  decide (0 < bitCounter)

/-- The PK.EXTRACT branch choice `bit_counter ≥ 6` (R17, R62). -/
def drainBranch (bitCounter : Nat) : Bool :=
  decide (6 ≤ bitCounter)

/-- The AE.ENCODE test `bank = 3` (R17, R69). -/
def bankIsThree (bank : Bank) : Bool :=
  bank == .three

/-- The PS.SPLIT test `i = 39` (R17, R79). -/
def lastDataBlock (i : Nat) : Bool :=
  i == 39

/-- `block_size = size div 40 + 1` (R19, R77). -/
def blockSizeOf (size : Nat) : Nat :=
  size / 40 + 1

/-- `last_len = size - 39*block_size`, an integer that may be negative (R77). -/
def lastLenOf (size : Nat) : Int :=
  (size : Int) - 39 * (blockSizeOf size : Int)

/-- Admission of progress mode (R78): (a) the last block's length is not negative, (b) every address formed fits
16 bits. -/
def splitAdmitted (startAddress : Addr) (size : Nat) : Bool :=
  decide (0 ≤ lastLenOf size) && decide (startAddress.toNat + 39 * blockSizeOf size ≤ 0xFFFF)

end Sys2Proof.Machine
end

