-- ==== Sys2Proof/Machine/Operands.lean ====
section
/-! DEFINITION. The operands of the operations: their domains (spec R55, R56, R87) and the operand registers a command
loads (R18, R26; log entry 16). -/

namespace Sys2Proof.Machine

/-- `row` is 1 to 24 (R56, R87). -/
def rowLegal (row : BitVec 5) : Bool :=
  decide (1 ≤ row.toNat) && decide (row.toNat ≤ 24)

/-- `col` is 1 to 40 (R56, R76). -/
def colLegal (col : BitVec 6) : Bool :=
  decide (1 ≤ col.toNat) && decide (col.toNat ≤ 40)

/-- A standalone BW.WRITE_BLOCK loads the operand registers it carries and starts at the first payload byte
(R18, R20, R26). -/
def loadBlockOperands (address : Addr) (bank : Bank) (len : Nat) (s : State) : State :=
  { s with startAddr := address, bank := bank, size := len, rdPtr := 0 }

/-- PS.SPLIT loads the operand registers it carries (R18, R79). -/
def loadSplitOperands (startAddress : Addr) (bank : Bank) (size : Nat) (row : BitVec 5) (s : State) : State :=
  { s with startAddr := startAddress, bank := bank, size := size, row := row }

/-- CV.CONVERT loads all five operand registers (R18, R82). -/
def loadConvertOperands (startAddress : Addr) (bank : Bank) (size : Nat) (rowValid : Bool) (row : BitVec 5)
    (s : State) : State :=
  { s with startAddr := startAddress, bank := bank, size := size, rowValid := rowValid, row := row }

end Sys2Proof.Machine
end

