-- ==== Sys2Proof/Machine/Ops.lean ====
section
/-! DEFINITION. The shared operations over the state: exceptions and hardware reset (spec R92, R93, R98), sequencing
that stops at a raise (R92) or a reset (R90), the two stream accesses (R34 to R36, R88), the accumulator (R60 to R64)
and the address digits (R69). -/

namespace Sys2Proof.Machine

/-! ## Exceptions and reset -/

/-- `raise E` (R92): the exception is recorded, nothing is saved, nothing is restored, the streams keep what they
hold. That the running operation and its callers stop is `andThen`. -/
def raise (e : Exception) (s : State) : State :=
  { s with fault := some e }

/-- An operation may start or go on: no exception stands (R23, R93) and no hardware reset has come (R90). -/
abbrev ready (s : State) : Prop :=
  s.fault = none ∧ s.resetRequest = false

/-- A hardware reset arrives in the middle of an operation (R90): the operation stops where it is, and the next step
performs the reset. That the running operation and its callers stop is `andThen`. -/
def stopForReset (s : State) : State :=
  { s with resetRequest := true }

/-- Hardware reset (R26, R98), the only way out of an exception (R93). What belongs to the environment stays: the
payload source, the command channel and the answers still to come (log entry 9). -/
def hardwareReset (s : State) : State :=
  { State.reset with
    pay := s.pay, commands := s.commands, sinkAnswers := s.sinkAnswers, sourceAnswers := s.sourceAnswers }

/-- Sequencing: the next part of an operation runs only if nothing has been raised (R92: "stops immediately") and no
hardware reset has stopped the operation (R90). -/
def andThen (s : State) (next : State → State) : State :=
  if ready s then next s else s

/-- An operation is executed only while `fault = none` (R23, R93) and no hardware reset is due (R90); otherwise nothing
happens. -/
def whenReady (s : State) (operation : State → Host.Outcome State Fault Refusal) :
    Host.Outcome State Fault Refusal :=
  if ready s then operation s else .next s

/-! ## The two streams -/

/-- `Emit(b)` (R8, R36): append one byte, unless the sink rejects it (R88) or a hardware reset stops the operation here
(R90). -/
def emit (b : Byte) (s : State) : State :=
  match s.sinkAnswers with
  | [] => { s with out := s.out ++ [b] }
  | .accepted :: rest => { s with out := s.out ++ [b], sinkAnswers := rest }
  | .failed :: rest => raise .ioError { s with sinkAnswers := rest }
  | .reset :: rest => stopForReset { s with sinkAnswers := rest }

/-- `EmitSeq(s)` (R8): emit every byte in order. -/
def emitSeq : List Byte → State → State
  | [], s => s
  | b :: bs, s => andThen (emit b s) (emitSeq bs)

/-- `MemRead(rd_ptr, 1)` followed by `rd_ptr <- rd_ptr + 1` (R35), and what is done with the byte. IOError if the
source fails or holds no such byte (R88); the read pointer then stays (log entry 18). A hardware reset may stop the
operation here (R90). -/
def readByteThen (use : Byte → State → State) (s : State) : State :=
  match s.sourceAnswers with
  | .failed :: rest => raise .ioError { s with sourceAnswers := rest }
  | .reset :: rest => stopForReset { s with sourceAnswers := rest }
  | answers =>
    match s.pay[s.rdPtr]? with
    | none => raise .ioError { s with sourceAnswers := answers.tail }
    | some b => use b { s with rdPtr := s.rdPtr + 1, sourceAnswers := answers.tail }

/-! ## The accumulator -/

/-- The accumulator after PK.RESET (R60). -/
def packerReset (s : State) : State :=
  { s with bits := 0, bitCounter := 0 }

/-- The accumulator after PK.FEED (R61). -/
def packerFeed (byte : Byte) (s : State) : State :=
  { s with bits := s.bits * 256 + byte.toNat, bitCounter := s.bitCounter + 8 }

/-- The result of `Extract(bits, bit_counter)` (R62). -/
structure Extracted where
  byte : Byte
  bits : Nat
  bitCounter : Nat
deriving DecidableEq, Repr

/-- `Extract(bits, bit_counter)` as a pure function (R62): the modulus is the mask as shifted in the branch taken.
Meant for `bit_counter ≥ 1`. -/
def extract (bits bitCounter : Nat) : Extracted :=
  if drainBranch bitCounter then
    let k := bitCounter - 6
    let mask := 0x3F <<< k
    { byte := BitVec.ofNat 8 (((bits &&& mask) >>> k) ||| 0x40), bits := bits % mask, bitCounter := bitCounter - 6 }
  else
    let k := 6 - bitCounter
    let mask := 0x3F >>> k
    { byte := BitVec.ofNat 8 (((bits &&& mask) <<< k) ||| 0x40), bits := bits % mask, bitCounter := 0 }

/-- PK.EXTRACT with something pending (R62): the accumulator is written, then the symbol byte is emitted. -/
def extractOne (s : State) : State :=
  let x := extract s.bits s.bitCounter
  emit x.byte { s with bits := x.bits, bitCounter := x.bitCounter }

/-- At most `fuel` iterations of `while bit_counter > 5: PK.EXTRACT` (R63). -/
def drainLoop : Nat → State → State
  | 0, s => s
  | fuel + 1, s => if symbolReady s.bitCounter then andThen (extractOne s) (drainLoop fuel) else s

/-- PK.DRAIN (R63). The bit counter falls at every iteration, so it bounds them. -/
def drain (s : State) : State :=
  drainLoop s.bitCounter s

/-- At most `fuel` iterations of `while bit_counter > 0: PK.EXTRACT` (R64). -/
def flushLoop : Nat → State → State
  | 0, s => s
  | fuel + 1, s => if bitsPending s.bitCounter then andThen (extractOne s) (flushLoop fuel) else s

/-- PK.FLUSH (R64). The bit counter falls at every iteration, so it bounds them. -/
def flush (s : State) : State :=
  flushLoop s.bitCounter s

/-! ## The address header -/

/-- `AddrEnc(address, bank)` (R69): three base-64 digits, tagged, the bank bit in the first. -/
def addrEnc (address : Addr) (bank : Bank) : List Byte :=
  let b3 := address.toNat % 64
  let a := address.toNat / 64
  let b2 := a % 64
  let a := a / 64
  let b1 := a % 64
  let b1 := b1 ||| 0x40
  let b2 := b2 ||| 0x40
  let b3 := b3 ||| 0x40
  let b1 := if bankIsThree bank then b1 ||| 0x10 else b1
  [BitVec.ofNat 8 b1, BitVec.ofNat 8 b2, BitVec.ofNat 8 b3]

end Sys2Proof.Machine
end

