-- ==== Sys2Proof/Machine/AddressEncoder.lean ====
section
/-! DEFINITION. The AddressEncoder operation (spec R69). -/

namespace Sys2Proof.Machine

/-- AE.ENCODE inside an operation: emit the three header bytes, b1 first (R69). -/
def emitHeader (address : Addr) (bank : Bank) (s : State) : State :=
  emitSeq (addrEnc address bank) s

/-- AE.ENCODE (R69). It has no state of its own and loads no operand register. -/
def execAeEncode (address : Addr) (bank : Bank) (s : State) : Host.Outcome State Fault Refusal :=
  whenReady s fun s => .next (emitHeader address bank s)

end Sys2Proof.Machine
end

