-- ==== Sys2Proof/Machine/BlockWriter.lean ====
section
/-! DEFINITION. The BlockWriter operation (spec R72 to R74). -/

namespace Sys2Proof.Machine

/-- One turn of the payload loop of R72: read a byte, PK.FEED it, PK.DRAIN. -/
def packByte (s : State) : State :=
  readByteThen (fun byte s => drain (packerFeed byte s)) s

/-- The payload loop of R72 over the next `len` bytes. -/
def packPayload : Nat → State → State
  | 0, s => s
  | len + 1, s => andThen (packByte s) (packPayload len)

/-- BW.WRITE_BLOCK as it stands inside an operation (R72): start marker, header, a fresh packer, the payload, the
flush, the end marker. The read pointer continues from where it is. -/
def writeBlock (address : Addr) (bank : Bank) (len : Nat) (endMarker : EndMarker) (s : State) : State :=
  andThen (emitSeq [start0, start1] s) fun s =>
  andThen (emitHeader address bank s) fun s =>
  andThen (packPayload len (packerReset s)) fun s =>
  andThen (flush s) fun s =>
  emit (endMarkerByte endMarker) s

/-- BW.WRITE_BLOCK (R72): a reserved end marker is refused (R56); a standalone block starts at payload byte 0. -/
def execBwWriteBlock (address : Addr) (bank : Bank) (len : Nat) (endMarker : Byte) (s : State) :
    Host.Outcome State Fault Refusal :=
  whenReady s fun s =>
    match endMarkerOfByte endMarker with
    | none => .refused (.endMarkerReserved endMarker)
    | some marker => .next (writeBlock address bank len marker (loadBlockOperands address bank len s))

end Sys2Proof.Machine
end

