-- ==== Sys2Proof/Machine/Markup.lean ====
section
/-! DEFINITION. The progress markup, opaque configuration data (spec R49 to R51; 92_eei_decisions.md D20; log entry 14):
a corrected byte changes these two lists and no rule. -/

namespace Sys2Proof.Machine

/-- A row or a column in one markup byte: `0x40 +` the value (R51). -/
def markupByte (value : Nat) : Byte :=
  BitVec.ofNat 8 (0x40 + value)

/-- START_SEQ(row), the ten bytes of R49. -/
def startSeq (row : BitVec 5) : List Byte :=
  [0x1F#8, markupByte row.toNat, 0x41#8, 0x1D#8, 0x51#8, 0x12#8, 0x67#8, 0x1F#8, markupByte row.toNat, 0x41#8]

/-- STEP_SEQ(row, col), the six bytes of R50. -/
def stepSeq (row : BitVec 5) (col : BitVec 6) : List Byte :=
  [0x1F#8, markupByte row.toNat, markupByte col.toNat, 0x1D#8, 0x82#8, 0x7F#8]

end Sys2Proof.Machine
end

