-- ==== Sys2Proof/Machine/ProgressSplitter.lean ====
section
/-! DEFINITION. The ProgressSplitter operations (spec R75 to R81). -/

namespace Sys2Proof.Machine

/-- PS.START_BLOCK inside an operation (R75). -/
def startBlock (row : BitVec 5) (s : State) : State :=
  if rowLegal row then emitSeq (startSeq row) s else raise .argumentError s

/-- PS.STEP_BLOCK inside an operation, its column in range (R76). -/
def stepBlock (row : BitVec 5) (col : BitVec 6) (s : State) : State :=
  if rowLegal row then emitSeq (stepSeq row col) s else raise .argumentError s

/-- One turn of the loop of R79: data block `i`, the address advance (not after block 39), the step for column
`i + 1`. -/
def dataBlock (bank : Bank) (lastLen : Nat) (row : BitVec 5) (i : Nat) (s : State) : State :=
  let s := { s with blkIdx := i }
  if lastDataBlock i then
    andThen (writeBlock s.curAddr bank lastLen .endDataBlock s) (stepBlock row 40#6)
  else
    andThen (writeBlock s.curAddr bank s.blockSize .endDataBlock s) fun s =>
      stepBlock row (BitVec.ofNat 6 (i + 1)) { s with curAddr := s.curAddr + BitVec.ofNat 16 s.blockSize }

/-- `count` turns of the loop of R79 from index `i`. -/
def dataBlocks (bank : Bank) (lastLen : Nat) (row : BitVec 5) : Nat → Nat → State → State
  | 0, _, s => s
  | count + 1, i, s => andThen (dataBlock bank lastLen row i s) (dataBlocks bank lastLen row count (i + 1))

/-- The body of PS.SPLIT once it is admitted (R79): the start sequence, the 40 data blocks with their steps, the
zero-length terminator block at the original start address. That `cur_addr`, `block_size` and `blk_idx` keep their last
values once it has ended is the model's choice (DESIGN CHOICE, log entry 21: R19 leaves them unspecified outside a
PS.SPLIT). -/
def splitBody (startAddress : Addr) (bank : Bank) (size : Nat) (row : BitVec 5) (s : State) : State :=
  andThen (startBlock row { s with curAddr := startAddress }) fun s =>
  andThen (dataBlocks bank (lastLenOf size).toNat row 40 0 s) fun s =>
  writeBlock startAddress bank 0 .endProgram { s with blkIdx := 40 }

/-- PS.SPLIT on the operand registers its command has loaded (R78, R79): the row check, the block size, the admission,
the body. Only a standalone PS.SPLIT starts at payload byte 0 (R20); inside CV.CONVERT the read pointer is set
already. -/
def split (standalone : Bool) (s : State) : State :=
  if rowLegal s.row then
    let s := { s with blockSize := blockSizeOf s.size }
    if splitAdmitted s.startAddr s.size then
      splitBody s.startAddr s.bank s.size s.row (if standalone then { s with rdPtr := 0 } else s)
    else raise .argumentError s
  else raise .argumentError s

/-- PS.START_BLOCK (R75). -/
def execPsStartBlock (row : BitVec 5) (s : State) : Host.Outcome State Fault Refusal :=
  whenReady s fun s => .next (startBlock row s)

/-- PS.STEP_BLOCK (R76): the row is checked first (ArgumentError), then the column (refused). -/
def execPsStepBlock (row : BitVec 5) (col : BitVec 6) (s : State) : Host.Outcome State Fault Refusal :=
  whenReady s fun s =>
    if rowLegal row && !colLegal col then .refused (.columnOutOfRange col) else .next (stepBlock row col s)

/-- PS.SPLIT (R79). -/
def execPsSplit (startAddress : Addr) (bank : Bank) (size : Nat) (row : BitVec 5) (s : State) :
    Host.Outcome State Fault Refusal :=
  whenReady s fun s => .next (split true (loadSplitOperands startAddress bank size row s))

end Sys2Proof.Machine
end

