-- ==== Sys2Proof/Machine/Converter.lean ====
section
/-! DEFINITION. The Converter operation (spec R82, R83). -/

namespace Sys2Proof.Machine

/-- The argument checks of CV.CONVERT, made before any access to a stream (R82, R91): none in single-block mode. -/
def convertAdmitted (s : State) : Bool :=
  !s.rowValid || (rowLegal s.row && splitAdmitted s.startAddr s.size)

/-- CV.CONVERT once its operands are loaded and admitted (R82): the preload verbatim, then the 41-block form or one
block with the end marker EndProgram. -/
def convertBody (preload : List Byte) (s : State) : State :=
  andThen (emitSeq preload { s with rdPtr := 0 }) fun s =>
  if s.rowValid then split false s else writeBlock s.startAddr s.bank s.size .endProgram s

/-- CV.CONVERT on its loaded operand registers (R82). -/
def convert (preload : List Byte) (s : State) : State :=
  if convertAdmitted s then convertBody preload s else raise .argumentError s

/-- CV.CONVERT (R82). -/
def execCvConvert (startAddress : Addr) (bank : Bank) (size : Nat) (rowValid : Bool) (row : BitVec 5)
    (preload : List Byte) (s : State) : Host.Outcome State Fault Refusal :=
  whenReady s fun s => .next (convert preload (loadConvertOperands startAddress bank size rowValid row s))

end Sys2Proof.Machine
end

