-- ==== Sys2Proof/Machine/Packer.lean ====
section
/-! DEFINITION. The BitPacker operations (spec R60 to R64). -/

namespace Sys2Proof.Machine

/-- PK.RESET (R60). -/
def execPkReset (s : State) : Host.Outcome State Fault Refusal :=
  whenReady s fun s => .next (packerReset s)

/-- PK.FEED (R61), the reference semantics for every state (log entry 13). -/
def execPkFeed (byte : Byte) (s : State) : Host.Outcome State Fault Refusal :=
  whenReady s fun s => .next (packerFeed byte s)

/-- PK.EXTRACT (R62): refused when nothing is pending. -/
def execPkExtract (s : State) : Host.Outcome State Fault Refusal :=
  whenReady s fun s =>
    if bitsPending s.bitCounter then .next (extractOne s) else .refused .extractWithNothingPending

/-- PK.DRAIN (R63). -/
def execPkDrain (s : State) : Host.Outcome State Fault Refusal :=
  whenReady s fun s => .next (drain s)

/-- PK.FLUSH (R64). -/
def execPkFlush (s : State) : Host.Outcome State Fault Refusal :=
  whenReady s fun s => .next (flush s)

end Sys2Proof.Machine
end

