-- ==== Sys2Proof/Machine/Reserved.lean ====
section
/-! DEFINITION. The reserved command codes (spec R56: "refused: spells no operation; no state changes"). -/

namespace Sys2Proof.Machine

/-- A reserved command code is refused (R56). -/
def refuseReserved (op : BitVec 4) (_ : State) : Host.Outcome State Fault Refusal :=
  .refused (.reservedCommandCode op)

/-- RESERVED_B (R56). -/
def execReservedB (s : State) : Host.Outcome State Fault Refusal := refuseReserved 0xB#4 s

/-- RESERVED_C (R56). -/
def execReservedC (s : State) : Host.Outcome State Fault Refusal := refuseReserved 0xC#4 s

/-- RESERVED_D (R56). -/
def execReservedD (s : State) : Host.Outcome State Fault Refusal := refuseReserved 0xD#4 s

/-- RESERVED_E (R56). -/
def execReservedE (s : State) : Host.Outcome State Fault Refusal := refuseReserved 0xE#4 s

/-- RESERVED_F (R56). -/
def execReservedF (s : State) : Host.Outcome State Fault Refusal := refuseReserved 0xF#4 s

end Sys2Proof.Machine
end

