-- ==== Sys2Proof/Machine/Wire.lean ====
section
/-! DEFINITION. The wire byte classes of the opcode table (spec R45 to R50). The table gives each class as a row; the
meaning of a row is the `Emit` (R8) of one byte of its class, the step of which every composite operation is made.
The command channel of the spec has no command for a bare `Emit` (95_test_vectors.md P2): that the model can be given
one is log entry 5. -/

namespace Sys2Proof.Machine

/-- The `Emit` of one byte as an operation (R8, R23). -/
def emitOperation (b : Byte) (s : State) : Host.Outcome State Fault Refusal :=
  whenReady s fun s => .next (emit b s)

/-- The `Emit` of a markup byte with a field; a field the core never emits is refused (R51, R56; log entry 19). -/
def emitFieldOperation (legal : Bool) (value : Nat) (s : State) : Host.Outcome State Fault Refusal :=
  whenReady s fun s =>
    if legal then .next (emit (markupByte value) s) else .refused (.wireFieldOutOfRange value)

/-- The first header byte: tag, bank bit, address bits 15 to 12 (R46). -/
def headerB1Byte (bank : Bank) (digit : BitVec 4) : Byte :=
  0x40#8 ||| (if bankIsThree bank then 0x10#8 else 0x00#8) ||| digit.setWidth 8

/-- A tagged byte with six data bits: the other header bytes and the symbols (R46, R47). -/
def taggedByte (data : BitVec 6) : Byte :=
  0x40#8 ||| data.setWidth 8

/-- WIRE.START_MARKER_0 (R45). -/
def execWireStartMarker0 (s : State) : Host.Outcome State Fault Refusal :=
  emitOperation start0 s

/-- WIRE.START_MARKER_1 (R45). -/
def execWireStartMarker1 (s : State) : Host.Outcome State Fault Refusal :=
  emitOperation start1 s

/-- WIRE.HEADER_B1 (R46). -/
def execWireHeaderB1 (bank : Bank) (digit : BitVec 4) (s : State) : Host.Outcome State Fault Refusal :=
  emitOperation (headerB1Byte bank digit) s

/-- WIRE.HEADER_B2 (R46). -/
def execWireHeaderB2 (digit : BitVec 6) (s : State) : Host.Outcome State Fault Refusal :=
  emitOperation (taggedByte digit) s

/-- WIRE.HEADER_B3 (R46). -/
def execWireHeaderB3 (digit : BitVec 6) (s : State) : Host.Outcome State Fault Refusal :=
  emitOperation (taggedByte digit) s

/-- WIRE.SYMBOL (R47). -/
def execWireSymbol (symbol : BitVec 6) (s : State) : Host.Outcome State Fault Refusal :=
  emitOperation (taggedByte symbol) s

/-- WIRE.END_PROGRAM_DEFAULT (R48). -/
def execWireEndProgramDefault (s : State) : Host.Outcome State Fault Refusal :=
  emitOperation (endMarkerByte .endProgramDefault) s

/-- WIRE.END_DATA_BLOCK (R48). -/
def execWireEndDataBlock (s : State) : Host.Outcome State Fault Refusal :=
  emitOperation (endMarkerByte .endDataBlock) s

/-- WIRE.END_PROGRAM_WITH_START (R48). -/
def execWireEndProgramWithStart (s : State) : Host.Outcome State Fault Refusal :=
  emitOperation (endMarkerByte .endProgramWithStart) s

/-- WIRE.END_PROGRAM (R48). -/
def execWireEndProgram (s : State) : Host.Outcome State Fault Refusal :=
  emitOperation (endMarkerByte .endProgram) s

/-- WIRE.END_PROGRAM_THEN_BASIC (R48). -/
def execWireEndProgramThenBasic (s : State) : Host.Outcome State Fault Refusal :=
  emitOperation (endMarkerByte .endProgramThenBasic) s

/-- WIRE.START_SEQ_0 (R49). -/
def execWireStartSeq0 (s : State) : Host.Outcome State Fault Refusal :=
  emitOperation 0x1F#8 s

/-- WIRE.START_SEQ_1 (R49). -/
def execWireStartSeq1 (row : BitVec 5) (s : State) : Host.Outcome State Fault Refusal :=
  emitFieldOperation (rowLegal row) row.toNat s

/-- WIRE.START_SEQ_2 (R49). -/
def execWireStartSeq2 (s : State) : Host.Outcome State Fault Refusal :=
  emitOperation 0x41#8 s

/-- WIRE.START_SEQ_3 (R49). -/
def execWireStartSeq3 (s : State) : Host.Outcome State Fault Refusal :=
  emitOperation 0x1D#8 s

/-- WIRE.START_SEQ_4 (R49). -/
def execWireStartSeq4 (s : State) : Host.Outcome State Fault Refusal :=
  emitOperation 0x51#8 s

/-- WIRE.START_SEQ_5 (R49). -/
def execWireStartSeq5 (s : State) : Host.Outcome State Fault Refusal :=
  emitOperation 0x12#8 s

/-- WIRE.START_SEQ_6 (R49). -/
def execWireStartSeq6 (s : State) : Host.Outcome State Fault Refusal :=
  emitOperation 0x67#8 s

/-- WIRE.START_SEQ_7 (R49). -/
def execWireStartSeq7 (s : State) : Host.Outcome State Fault Refusal :=
  emitOperation 0x1F#8 s

/-- WIRE.START_SEQ_8 (R49). -/
def execWireStartSeq8 (row : BitVec 5) (s : State) : Host.Outcome State Fault Refusal :=
  emitFieldOperation (rowLegal row) row.toNat s

/-- WIRE.START_SEQ_9 (R49). -/
def execWireStartSeq9 (s : State) : Host.Outcome State Fault Refusal :=
  emitOperation 0x41#8 s

/-- WIRE.STEP_SEQ_0 (R50). -/
def execWireStepSeq0 (s : State) : Host.Outcome State Fault Refusal :=
  emitOperation 0x1F#8 s

/-- WIRE.STEP_SEQ_1 (R50). -/
def execWireStepSeq1 (row : BitVec 5) (s : State) : Host.Outcome State Fault Refusal :=
  emitFieldOperation (rowLegal row) row.toNat s

/-- WIRE.STEP_SEQ_2 (R50). -/
def execWireStepSeq2 (col : BitVec 6) (s : State) : Host.Outcome State Fault Refusal :=
  emitFieldOperation (colLegal col) col.toNat s

/-- WIRE.STEP_SEQ_3 (R50). -/
def execWireStepSeq3 (s : State) : Host.Outcome State Fault Refusal :=
  emitOperation 0x1D#8 s

/-- WIRE.STEP_SEQ_4 (R50). -/
def execWireStepSeq4 (s : State) : Host.Outcome State Fault Refusal :=
  emitOperation 0x82#8 s

/-- WIRE.STEP_SEQ_5 (R50). -/
def execWireStepSeq5 (s : State) : Host.Outcome State Fault Refusal :=
  emitOperation 0x7F#8 s

end Sys2Proof.Machine
end

