-- ==== Sys2Proof/Machine/Dispatch.lean ====
section
/-! DEFINITION. What each row of the opcode table does: one arm per constructor, one call per arm. -/

namespace Sys2Proof.Machine

def exec (i : Instr) (s : State) : Host.Outcome State Fault Refusal :=
  match i with
  | .pkReset => Sys2Proof.Machine.execPkReset s
  | .pkFeed byte => Sys2Proof.Machine.execPkFeed byte s
  | .pkExtract => Sys2Proof.Machine.execPkExtract s
  | .pkDrain => Sys2Proof.Machine.execPkDrain s
  | .pkFlush => Sys2Proof.Machine.execPkFlush s
  | .aeEncode address bank => Sys2Proof.Machine.execAeEncode address bank s
  | .bwWriteBlock address bank len endMarker => Sys2Proof.Machine.execBwWriteBlock address bank len endMarker s
  | .psStartBlock row => Sys2Proof.Machine.execPsStartBlock row s
  | .psStepBlock row col => Sys2Proof.Machine.execPsStepBlock row col s
  | .psSplit startAddress bank size row => Sys2Proof.Machine.execPsSplit startAddress bank size row s
  | .cvConvert startAddress bank size rowValid row preload => Sys2Proof.Machine.execCvConvert startAddress bank size rowValid row preload s
  | .reservedB => Sys2Proof.Machine.execReservedB s
  | .reservedC => Sys2Proof.Machine.execReservedC s
  | .reservedD => Sys2Proof.Machine.execReservedD s
  | .reservedE => Sys2Proof.Machine.execReservedE s
  | .reservedF => Sys2Proof.Machine.execReservedF s
  | .wireStartMarker0 => Sys2Proof.Machine.execWireStartMarker0 s
  | .wireStartMarker1 => Sys2Proof.Machine.execWireStartMarker1 s
  | .wireHeaderB1 bank digit => Sys2Proof.Machine.execWireHeaderB1 bank digit s
  | .wireHeaderB2 digit => Sys2Proof.Machine.execWireHeaderB2 digit s
  | .wireHeaderB3 digit => Sys2Proof.Machine.execWireHeaderB3 digit s
  | .wireSymbol symbol => Sys2Proof.Machine.execWireSymbol symbol s
  | .wireEndProgramDefault => Sys2Proof.Machine.execWireEndProgramDefault s
  | .wireEndDataBlock => Sys2Proof.Machine.execWireEndDataBlock s
  | .wireEndProgramWithStart => Sys2Proof.Machine.execWireEndProgramWithStart s
  | .wireEndProgram => Sys2Proof.Machine.execWireEndProgram s
  | .wireEndProgramThenBasic => Sys2Proof.Machine.execWireEndProgramThenBasic s
  | .wireStartSeq0 => Sys2Proof.Machine.execWireStartSeq0 s
  | .wireStartSeq1 row => Sys2Proof.Machine.execWireStartSeq1 row s
  | .wireStartSeq2 => Sys2Proof.Machine.execWireStartSeq2 s
  | .wireStartSeq3 => Sys2Proof.Machine.execWireStartSeq3 s
  | .wireStartSeq4 => Sys2Proof.Machine.execWireStartSeq4 s
  | .wireStartSeq5 => Sys2Proof.Machine.execWireStartSeq5 s
  | .wireStartSeq6 => Sys2Proof.Machine.execWireStartSeq6 s
  | .wireStartSeq7 => Sys2Proof.Machine.execWireStartSeq7 s
  | .wireStartSeq8 row => Sys2Proof.Machine.execWireStartSeq8 row s
  | .wireStartSeq9 => Sys2Proof.Machine.execWireStartSeq9 s
  | .wireStepSeq0 => Sys2Proof.Machine.execWireStepSeq0 s
  | .wireStepSeq1 row => Sys2Proof.Machine.execWireStepSeq1 row s
  | .wireStepSeq2 col => Sys2Proof.Machine.execWireStepSeq2 col s
  | .wireStepSeq3 => Sys2Proof.Machine.execWireStepSeq3 s
  | .wireStepSeq4 => Sys2Proof.Machine.execWireStepSeq4 s
  | .wireStepSeq5 => Sys2Proof.Machine.execWireStepSeq5 s

end Sys2Proof.Machine
end

