-- ==== Sys2Proof/Machine/Fetch.lean ====
section
/-! DEFINITION. Taking the next record from the command channel (spec R5, R54, R105; log entry 4). -/

namespace Sys2Proof.Machine

/-- Take the oldest record off the command channel, decode it, and run it to its end (R5, R105). With no record the
core is idle (R98). A record that decodes to nothing is refused. -/
def takeCommand (s : State) : Host.Outcome State Fault Refusal :=
  match s.commands with
  | [] => .next s
  | record :: rest =>
    match decode record with
    | .ok i => exec i { s with commands := rest }
    | .error reason => .refused (.rejectedRecord reason)

/-- One step of the core: a requested hardware reset first, one that has stopped an operation included (R90, R98; log
entry 9), nothing while an exception stands
(R23, R93; log entry 8), otherwise the next command. -/
def coreStep (s : State) : Host.Outcome State Fault Refusal :=
  if s.resetRequest then .next (hardwareReset s) else whenReady s takeCommand

/-- A record put at the head of the command channel, with no hardware reset requested before it. -/
def offerFirst (record : Record) (s : State) : State :=
  { s with commands := record :: s.commands, resetRequest := false }

end Sys2Proof.Machine
end

