-- ==== Sys2Proof/Machine/Step.lean ====
section
/-! DEFINITION. The step of the machine and where it fetches (spec R5; log entries 4 and 6). -/

namespace Sys2Proof.Machine

/-- One step: see `coreStep`. -/
def step (s : State) : Host.Outcome State Fault Refusal :=
  coreStep s

/-- The state with the record of a table word at the head of its command channel, so that the next step runs it (log
entries 4 and 6). A word that is no row leaves the state as it is. -/
def State.withFetchWord (s : State) (nbits w : Nat) : State :=
  match tableRecord nbits w with
  | some record => offerFirst record s
  | none => s

end Sys2Proof.Machine
end

