-- ==== Sys2Proof/Config.lean ====
section
/-! DEFINITION. The open parameters of an implementation (spec R6). The core itself follows the reference semantics,
in which the accumulator, the bit counter and the payload size are unbounded; a finite realisation is a choice of
the three parameters below (R14, R102), and its operations stand in Machine/Realisation.lean. -/

namespace Sys2Proof

/-- The open parameters of a realisation (R6: ACC_WIDTH, BC_WIDTH, SIZE_MAX). -/
structure Realisation where
  /-- ACC_WIDTH: the width of `bits`. -/
  accWidth : Nat
  /-- BC_WIDTH: the width of `bit_counter`. -/
  bcWidth : Nat
  /-- SIZE_MAX: the largest payload size accepted, or nothing where it is unbounded, as in the reference semantics. -/
  sizeMax : Option Nat := none
deriving DecidableEq, Repr

/-- The constraint R6 and R14 put on an exact finite realisation: ACC_WIDTH ≥ 18 and BC_WIDTH ≥ 4. -/
def Realisation.exact (r : Realisation) : Bool :=
  decide (18 ≤ r.accWidth) && decide (4 ≤ r.bcWidth)

/-- Whether a realisation accepts a payload of this size (R6: SIZE_MAX). -/
def Realisation.acceptsSize (r : Realisation) (size : Nat) : Bool :=
  match r.sizeMax with
  | none => true
  | some largest => decide (size ≤ largest)

end Sys2Proof
end

