-- ==== Sys2Proof/Machine/Realisation.lean ====
section
/-! DEFINITION. A finite realisation beside the reference machine (spec R6, R14, R102): its packer, in which the
accumulator and the counter are truncated to their widths after a feed and a feed with more than five pending bits is
refused, and its operations, which take no payload larger than SIZE_MAX. -/

namespace Sys2Proof.Machine

/-- PK.FEED of a finite realisation on `(bits, bit_counter)`: refused (nothing) when `bit_counter > 5` (R102), else
truncated to the widths (R14). -/
def finiteFeed (r : Realisation) (byte : Byte) (p : Nat × Nat) : Option (Nat × Nat) :=
  if 5 < p.2 then none else some ((p.1 * 256 + byte.toNat) % 2 ^ r.accWidth, (p.2 + 8) % 2 ^ r.bcWidth)

/-- PK.FEED of the reference semantics on `(bits, bit_counter)` (R61). -/
def pureFeed (byte : Byte) (p : Nat × Nat) : Nat × Nat :=
  (p.1 * 256 + byte.toNat, p.2 + 8)

/-- PK.DRAIN on `(bits, bit_counter)` with the bytes it emits, at most `fuel` iterations (R63). -/
def pureDrain : Nat → Nat × Nat → List Byte × (Nat × Nat)
  | 0, p => ([], p)
  | fuel + 1, p =>
    if symbolReady p.2 then
      let x := extract p.1 p.2
      let rest := pureDrain fuel (x.bits, x.bitCounter)
      (x.byte :: rest.1, rest.2)
    else ([], p)

/-- Feed and drain each byte of a payload in the reference semantics: the bytes emitted and the packer left. -/
def referenceRun : List Byte → Nat × Nat → List Byte × (Nat × Nat)
  | [], p => ([], p)
  | b :: bs, p =>
    let fed := pureFeed b p
    let drained := pureDrain fed.2 fed
    let rest := referenceRun bs drained.2
    (drained.1 ++ rest.1, rest.2)

/-- Feed and drain each byte of a payload in a finite realisation, or nothing if a feed is refused. -/
def finiteRun (r : Realisation) : List Byte → Nat × Nat → Option (List Byte × (Nat × Nat))
  | [], p => some ([], p)
  | b :: bs, p =>
    match finiteFeed r b p with
    | none => none
    | some fed =>
      let drained := pureDrain fed.2 fed
      match finiteRun r bs drained.2 with
      | none => none
      | some rest => some (drained.1 ++ rest.1, rest.2)

/-- The payload size a command carries: `len` or `size` (R54), 0 for a command without one. -/
def commandSize : Instr → Nat
  | .bwWriteBlock _ _ len _ => len
  | .psSplit _ _ size _ => size
  | .cvConvert _ _ size _ _ _ => size
  | _ => 0

/-- An operation of a finite realisation: a command with a payload above SIZE_MAX is refused before it does anything
(R6; log entry 22), PK.FEED is the finite one (R14, R102), and every other operation is the reference one, which is
meant for a realisation whose widths are exact (R14). -/
def finiteExec (r : Realisation) (i : Instr) (s : State) : Host.Outcome State Fault Refusal :=
  if ready s then
    if r.acceptsSize (commandSize i) then
      match i with
      | .pkFeed byte =>
        match finiteFeed r byte (s.bits, s.bitCounter) with
        | none => .refused .feedWithSymbolPending
        | some fed => .next { s with bits := fed.1, bitCounter := fed.2 }
      | other => exec other s
    else .refused (.sizeAboveMaximum (commandSize i))
  else exec i s

end Sys2Proof.Machine
end

