-- ==== Sys2Proof/Safety.lean ====
section
/-! DEFINITION. What a well-driven run is (spec R99 to R109): the protocol the driver of the packer has to respect, and
what the environment has to provide for a conversion to complete. The operations keep the reference semantics outside
the protocol (log entry 13); claims that need it take it as a premise. -/

namespace Sys2Proof.Safety

open Sys2Proof.Machine

/-- Where a packing session stands (R100, R101): not opened since the last session ended, or open. -/
inductive Session where
  | closed
  | opened
deriving DecidableEq, Repr

/-- Whether the driver may issue a packer operation here: PK.FEED only in an open session with at most five pending
bits (R100 to R102), PK.EXTRACT only in an open session with something pending (R103). The other operations are
always admitted. -/
def admitted (session : Session) (s : State) : Instr → Bool
  | .pkFeed _ => session == .opened && decide (s.bitCounter ≤ 5)
  | .pkExtract => session == .opened && decide (1 ≤ s.bitCounter)
  | _ => true

/-- The session after an operation issued in a state: PK.RESET opens one; PK.FLUSH, a padded PK.EXTRACT and every
composite that flushes end it (R100, R101, R103). -/
def sessionAfter (session : Session) (s : State) : Instr → Session
  | .pkReset => .opened
  | .pkExtract => if s.bitCounter ≤ 5 then .closed else session
  | .pkFlush => .closed
  | .bwWriteBlock _ _ _ _ => .closed
  | .psSplit _ _ _ _ => .closed
  | .cvConvert _ _ _ _ _ _ => .closed
  | _ => session

/-- The outcome of running a list of operations one after another under the protocol: the last session and state, or
nothing if an operation is not admitted or does not answer a next state. -/
def runAdmitted : List Instr → Session → State → Option (Session × State)
  | [], session, s => some (session, s)
  | i :: is, session, s =>
    if admitted session s i then
      match exec i s with
      | .next t => runAdmitted is (sessionAfter session s i) t
      | _ => none
    else none

/-- Run a list of operations one after another, up to the first that does not answer a next state (R5, R105). -/
def runAll : List Instr → State → Host.Outcome State Fault Refusal
  | [], s => .next s
  | i :: is, s =>
    match exec i s with
    | .next t => runAll is t
    | .fault f => .fault f
    | .refused r => .refused r

/-- The sink accepts the next `n` `Emit`s (R88, R99). -/
abbrev sinkAccepts (s : State) (n : Nat) : Prop :=
  ∀ a ∈ s.sinkAnswers.take n, a = Answer.accepted

/-- The sink accepts exactly the next `n` `Emit`s and rejects the one after them (R88). -/
abbrev sinkRejectsAfter (s : State) (n : Nat) : Prop :=
  sinkAccepts s n ∧ s.sinkAnswers[n]? = some Answer.failed

/-- The sink accepts exactly the next `n` `Emit`s, and a hardware reset comes at the one after them (R90). -/
abbrev sinkResetAfter (s : State) (n : Nat) : Prop :=
  sinkAccepts s n ∧ s.sinkAnswers[n]? = some Answer.reset

/-- The payload source answers `n` reads from index `start` on and holds those bytes (R88, R99). -/
abbrev sourceDelivers (s : State) (start n : Nat) : Prop :=
  (∀ a ∈ s.sourceAnswers.take n, a = Answer.accepted) ∧ start + n ≤ s.pay.length

/-- The payload source answers exactly `n` reads from index `start` on: then it holds no more bytes, or it fails
(R88). -/
abbrev sourceStopsAfter (s : State) (start n : Nat) : Prop :=
  sourceDelivers s start n ∧
  (start + n = s.pay.length ∧ s.sourceAnswers[n]? ≠ some Answer.reset ∨ s.sourceAnswers[n]? = some Answer.failed)

/-- The payload source answers exactly `n` reads from index `start` on, and a hardware reset comes at the one after
them (R90). -/
abbrev sourceResetAfter (s : State) (start n : Nat) : Prop :=
  sourceDelivers s start n ∧ s.sourceAnswers[n]? = some Answer.reset

/-- A conversion of `size` bytes is complete: nothing was raised, no reset has stopped it, the whole payload was read,
nothing is pending (R82; 92_eei_decisions.md D23). -/
def converted (s : State) (size : Nat) : Prop :=
  ready s ∧ s.rdPtr = size ∧ s.bitCounter = 0

/-- The values the packer takes while every PK.FEED meets at most five pending bits: `bit_counter` is 0, 2, 4, 6, 8, 10
or 12, and `bits` is bounded in each case as R14 computes it (R12, R14). -/
abbrev packerBounded (s : State) : Prop :=
  (s.bitCounter = 0 ∧ s.bits ≤ 62) ∨ (s.bitCounter = 2 ∧ s.bits ≤ 251) ∨ (s.bitCounter = 4 ∧ s.bits ≤ 1007) ∨
  (s.bitCounter = 6 ∧ s.bits ≤ 4031) ∨ (s.bitCounter = 8 ∧ s.bits ≤ 16127) ∨ (s.bitCounter = 10 ∧ s.bits ≤ 64511) ∨
  (s.bitCounter = 12 ∧ s.bits ≤ 258047)

/-- The working registers stay in the domains of R10, R19 and R20: `blk_idx` is 0 to 40, `block_size` at least 1, and
`rd_ptr` at most `size`. After an ArgumentError the last is not claimed: the operand registers may then hold the
operands of the command that was turned away (R92: meaningless). -/
abbrev registersInDomain (s : State) : Prop :=
  s.blkIdx ≤ 40 ∧ 1 ≤ s.blockSize ∧ (s.fault ≠ some .argumentError → s.rdPtr ≤ s.size)

/-- The two states agree on everything but the operand registers of R18 and the working registers of R19. -/
abbrev agreeButUnloaded (s t : State) : Prop :=
  s.bits = t.bits ∧ s.bitCounter = t.bitCounter ∧ s.rdPtr = t.rdPtr ∧ s.out = t.out ∧ s.pay = t.pay ∧
  s.fault = t.fault ∧ s.commands = t.commands ∧ s.sinkAnswers = t.sinkAnswers ∧
  s.sourceAnswers = t.sourceAnswers ∧ s.resetRequest = t.resetRequest

/-- Two outcomes agree on everything but those registers. -/
abbrev outcomesAgree : Host.Outcome State Fault Refusal → Host.Outcome State Fault Refusal → Prop
  | .next s, .next t => agreeButUnloaded s t
  | .refused a, .refused b => a = b
  | _, _ => False

/-- The operand registers of R18, the working registers of R19 and R20, the payload and the source's answers are
untouched; a reset may have been requested, none is withdrawn. -/
abbrev registersKept (s t : State) : Prop :=
  t.startAddr = s.startAddr ∧ t.bank = s.bank ∧ t.size = s.size ∧ t.rowValid = s.rowValid ∧ t.row = s.row ∧
  t.curAddr = s.curAddr ∧ t.blockSize = s.blockSize ∧ t.blkIdx = s.blkIdx ∧ t.rdPtr = s.rdPtr ∧ t.pay = s.pay ∧
  t.commands = s.commands ∧ t.sourceAnswers = s.sourceAnswers ∧ (s.resetRequest = true → t.resetRequest = true)

end Sys2Proof.Safety

/-! What the output stream has to hold, written from the wire formats and laws of the spec (R28, R44 to R50, R65, R70,
R80), not from the operations: statements compare the operations with it. -/

namespace Sys2Proof.Reference

open Sys2Proof.Machine

/-- A state whose output stream has taken these bytes, each with one accepting answer of the sink (R36, R88). -/
def appended (bytes : List Byte) (s : State) : State :=
  { s with out := s.out ++ bytes, sinkAnswers := s.sinkAnswers.drop bytes.length }

/-- The eight bits of a byte, bit 7 first (R28). -/
def byteBits (b : Byte) : List Bool :=
  [b.getLsbD 7, b.getLsbD 6, b.getLsbD 5, b.getLsbD 4, b.getLsbD 3, b.getLsbD 2, b.getLsbD 1, b.getLsbD 0]

/-- The bit string `S` of a payload (R28): its bytes in index order, each most significant bit first. -/
def bitString (payload : List Byte) : List Bool :=
  payload.flatMap byteBits

/-- The value of bits `6t` to `6t+5` of a bit string, the earlier bit the more significant, a missing bit zero
(R28, R65). -/
def symbolAt (s : List Bool) (t : Nat) : Nat :=
  (s.getD (6 * t) false).toNat * 32 + (s.getD (6 * t + 1) false).toNat * 16 + (s.getD (6 * t + 2) false).toNat * 8
    + (s.getD (6 * t + 3) false).toNat * 4 + (s.getD (6 * t + 4) false).toNat * 2
    + (s.getD (6 * t + 5) false).toNat

/-- `ceil(8n/6)`, the symbol bytes of `n` payload bytes (R31, R66). -/
def symbolCount (n : Nat) : Nat :=
  (8 * n + 5) / 6

/-- The symbol bytes of a payload: `0x40 + s_t` for every 6-bit group (R65). -/
def symbolBytes (payload : List Byte) : List Byte :=
  (List.range (symbolCount payload.length)).map fun t => BitVec.ofNat 8 (0x40 + symbolAt (bitString payload) t)

/-- The symbols of the complete groups of a window of `bitCounter` bits, first group first (R28, R63). -/
def drainedSymbols (bits bitCounter : Nat) : List Byte :=
  (List.range (bitCounter / 6)).map fun j => BitVec.ofNat 8 (0x40 + bits / 2 ^ (bitCounter - 6 * (j + 1)) % 64)

/-- The symbols of a whole window: the complete groups, then what is left with zero bits on its right (R64). -/
def flushedSymbols (bits bitCounter : Nat) : List Byte :=
  drainedSymbols bits bitCounter ++
    (if bitCounter % 6 = 0 then []
     else [BitVec.ofNat 8 (0x40 + bits % 2 ^ (bitCounter % 6) * 2 ^ (6 - bitCounter % 6))])

/-- The three header bytes in closed form (R46, R70). -/
def headerBytes (address : Addr) (bank : Bank) : List Byte :=
  [0b010#3 ++ (if bank = .three then 1#1 else 0#1) ++ address.extractLsb' 12 4,
   0b01#2 ++ address.extractLsb' 6 6,
   0b01#2 ++ address.extractLsb' 0 6]

/-- The framed block (R44). -/
def blockBytes (address : Addr) (bank : Bank) (payload : List Byte) (endMarker : Byte) : List Byte :=
  [0x1F#8, 0x3C#8] ++ headerBytes address bank ++ symbolBytes payload ++ [endMarker]

/-- One entry of the payload plan (R80): address, first payload index, length, end marker. -/
structure PlanEntry where
  address : Nat
  first : Nat
  length : Nat
  endMarker : Byte
deriving DecidableEq, Repr

/-- The payload plan of progress mode (R80): 40 data blocks and the terminator. -/
def progressPlan (size startAddress : Nat) : List PlanEntry :=
  let blockSize := size / 40 + 1
  (List.range 39).map (fun i => ⟨startAddress + i * blockSize, i * blockSize, blockSize, 0x22#8⟩)
    ++ [⟨startAddress + 39 * blockSize, 39 * blockSize, size - 39 * blockSize, 0x22#8⟩, ⟨startAddress, size, 0, 0x29#8⟩]

/-- The block of a plan entry (R44, R80). -/
def planBlock (bank : Bank) (payload : List Byte) (e : PlanEntry) : List Byte :=
  blockBytes (BitVec.ofNat 16 e.address) bank ((payload.drop e.first).take e.length) e.endMarker

/-- What progress mode appends after the preload (R52): the start sequence, each data block followed by its step, the
terminator block. -/
def progressBytes (startAddress : Addr) (bank : Bank) (size : Nat) (row : BitVec 5) (payload : List Byte) :
    List Byte :=
  startSeq row
    ++ ((progressPlan size startAddress.toNat).take 40).zipIdx.flatMap
        (fun e => planBlock bank payload e.1 ++ stepSeq row (BitVec.ofNat 6 (e.2 + 1)))
    ++ blockBytes startAddress bank [] 0x29#8

/-- What CV.CONVERT appends (R52): the preload verbatim, then the form its mode chooses. -/
def convertBytes (startAddress : Addr) (bank : Bank) (size : Nat) (rowValid : Bool) (row : BitVec 5)
    (preload payload : List Byte) : List Byte :=
  preload ++
    (if rowValid then progressBytes startAddress bank size row payload
     else blockBytes startAddress bank (payload.take size) 0x29#8)

end Sys2Proof.Reference
end

