-- ==== Sys2Proof/Certificates/Slice0/Obligations.lean ====
section
/-! DEFINITION. The statements for the provers. Each is a proposition about the machine, from the spec's rules; what
the output has to be is taken from Sys2Proof.Reference, which is written from the wire formats and not from the
operations. -/

open Sys2Proof Sys2Proof.Machine Sys2Proof.Safety Sys2Proof.Reference

/-! ## Reset, step, decoding -/

/-- What hardware reset leaves, in the reset state and after any requested reset (10_state.md, reset values). How a
reset is requested and that the payload stays are the model's choices (log entries 9 and 1). -/
def Obligations.HardwareResetValues : Prop :=
  (State.reset.bits = 0 ∧ State.reset.bitCounter = 0 ∧ State.reset.rdPtr = 0 ∧ State.reset.out = [] ∧
    State.reset.fault = none) ∧
  ∀ s : State, s.resetRequest = true →
    ∃ t, step s = .next t ∧ t.bits = 0 ∧ t.bitCounter = 0 ∧ t.rdPtr = 0 ∧ t.out = [] ∧ t.fault = none ∧
      t.resetRequest = false ∧ t.pay = s.pay

/-- While an exception stands, no operation is executed: only a hardware reset leaves (60_exceptions.md). Nor is one
while a hardware reset is due. The reserved codes are no operations and are refused as always. That the step of a
stopped core then leaves every field alone, its command included, is log entry 8; the reset request is log entry 9. -/
def Obligations.FaultedCoreExecutesNothing : Prop :=
  (∀ s : State, s.fault ≠ none → s.resetRequest = false → step s = .next s) ∧
  ∀ s : State, ¬ ready s →
    ∀ i : Instr, exec i s = .next s ∨ i ∈ [Instr.reservedB, .reservedC, .reservedD, .reservedE, .reservedF]

/-- With nothing on the command channel the core is idle (the channel as a list of records is log entry 4). -/
def Obligations.IdleCoreWaits : Prop :=
  ∀ s : State, s.resetRequest = false → s.commands = [] → step s = .next s

/-- A step runs the decoded instruction, with its record taken off the channel (the channel is log entry 4). -/
def Obligations.StepRunsDecodedInstruction : Prop :=
  ∀ (s : State) (record : Record) (rest : List Record) (i : Instr), s.resetRequest = false → s.fault = none →
    s.commands = record :: rest → decode record = .ok i → step s = exec i { s with commands := rest }

/-- Decoding an encoding gives the instruction back: every well-formed instruction, and every operation of the command
channel whatever its operands. -/
def Obligations.DecodeOfEncode : Prop :=
  ∀ i : Instr, (i.wellFormed = true ∨ ∃ op ports, encode i = .command op ports) → decode (encode i) = .ok i

/-- What decodes encodes to the record it came from: a wire byte exactly, a command to the same code with the same
operands in the ports the operation uses. -/
def Obligations.EncodeOfDecode : Prop :=
  (∀ (slot : WireSlot) (b : Byte) (i : Instr), decode (.wire slot b) = .ok i →
    encode i = .wire slot b ∧ i.wellFormed = true) ∧
  ∀ (op : BitVec 4) (p : Ports) (i : Instr), decode (.command op p) = .ok i →
    ∃ q, encode i = .command op q ∧ decodeCommand op q = i

/-- A few records written out from the spec's tables decode to the instructions they stand for. -/
def Obligations.SpecRecordsDecode : Prop :=
  decode (.command 0x1#4 { byte := 0xDE#8 }) = .ok (.pkFeed 0xDE#8) ∧
  decode (.command 0x5#4 { address := 0x8100#16, bankSel := 1#1 }) = .ok (.aeEncode 0x8100#16 .three) ∧
  decode (.command 0x6#4 { address := 0x8100#16, len := 3, endMarker := 0x29#8 })
    = .ok (.bwWriteBlock 0x8100#16 .two 3 0x29#8) ∧
  decode (.command 0xA#4 { startAddress := 0x4000#16, bankSel := 1#1, size := 79, rowValid := 1#1, row := 1#5 })
    = .ok (.cvConvert 0x4000#16 .three 79 true 1#5 []) ∧
  decode (.wire .headerB1 0b01011000#8) = .ok (.wireHeaderB1 .three 0b1000#4) ∧
  decode (.wire (.stepSeq 2) 0x68#8) = .ok (.wireStepSeq2 40#6)

/-- A reserved command code is refused, in every state (30_encoding.md). -/
def Obligations.ReservedCodesRefused : Prop :=
  (∀ s : State, exec .reservedB s = .refused (.reservedCommandCode 0xB#4)) ∧
  (∀ s : State, exec .reservedC s = .refused (.reservedCommandCode 0xC#4)) ∧
  (∀ s : State, exec .reservedD s = .refused (.reservedCommandCode 0xD#4)) ∧
  (∀ s : State, exec .reservedE s = .refused (.reservedCommandCode 0xE#4)) ∧
  (∀ s : State, exec .reservedF s = .refused (.reservedCommandCode 0xF#4)) ∧
  ∀ (op : BitVec 4) (p : Ports), 0xB ≤ op.toNat → (decodeCommand op p).wellFormed = false

/-- The header bytes the encoder emits are read at their positions as the header rows with the address digits and the
bank. -/
def Obligations.HeaderBytesDecodeToTheirRows : Prop :=
  ∀ (a : Addr) (bank : Bank), ∃ b1 b2 b3, addrEnc a bank = [b1, b2, b3] ∧
    decode (.wire .headerB1 b1) = .ok (.wireHeaderB1 bank (a.extractLsb' 12 4)) ∧
    decode (.wire .headerB2 b2) = .ok (.wireHeaderB2 (a.extractLsb' 6 6)) ∧
    decode (.wire .headerB3 b3) = .ok (.wireHeaderB3 (a.extractLsb' 0 6))

/-! ## BitPacker -/

/-- PK.RESET clears the accumulator and touches nothing else; it is idempotent. -/
def Obligations.PackerResetClears : Prop :=
  encode .pkReset = .command 0x0#4 {} ∧
  ∀ s : State, ready s →
    exec .pkReset s = .next { s with bits := 0, bitCounter := 0 } ∧
    exec .pkReset { s with bits := 0, bitCounter := 0 } = .next { s with bits := 0, bitCounter := 0 }

/-- PK.FEED appends the byte's eight bits at the low end, in every state, and emits nothing. -/
def Obligations.FeedAppendsEightBits : Prop :=
  ∀ (b : Byte) (s : State), encode (.pkFeed b) = .command 0x1#4 { byte := b } ∧
    (ready s →
      exec (.pkFeed b) s = .next { s with bits := s.bits * 256 + b.toNat, bitCounter := s.bitCounter + 8 })

/-- PK.EXTRACT with at least six bits pending: the top six bits of the window, the modulus of the shifted mask, and the
low bits of the window kept. -/
def Obligations.ExtractEmitsTopOfWindow : Prop :=
  ∀ s : State, ready s → 6 ≤ s.bitCounter → sinkAccepts s 1 →
    exec .pkExtract s = .next
      { appended [BitVec.ofNat 8 (0x40 + s.bits % 2 ^ s.bitCounter / 2 ^ (s.bitCounter - 6))] s with
        bits := s.bits % (63 * 2 ^ (s.bitCounter - 6)), bitCounter := s.bitCounter - 6 } ∧
    s.bits % (63 * 2 ^ (s.bitCounter - 6)) % 2 ^ (s.bitCounter - 6) = s.bits % 2 ^ (s.bitCounter - 6)

/-- PK.EXTRACT with one to five bits pending: the window moved to the top of the symbol, zero bits below. -/
def Obligations.ExtractPadsLastSymbol : Prop :=
  ∀ s : State, ready s → 1 ≤ s.bitCounter → s.bitCounter ≤ 5 → sinkAccepts s 1 →
    exec .pkExtract s = .next
      { appended [BitVec.ofNat 8 (0x40 + s.bits % 2 ^ s.bitCounter * 2 ^ (6 - s.bitCounter))] s with
        bits := s.bits % (2 ^ s.bitCounter - 1), bitCounter := 0 }

/-- PK.EXTRACT with nothing pending is refused. -/
def Obligations.ExtractOfNothingRefused : Prop :=
  ∀ s : State, ready s → s.bitCounter = 0 → exec .pkExtract s = .refused .extractWithNothingPending

/-- When the sink rejects the symbol, the accumulator has already been written and the byte is lost; the exception is
recorded and the output is as before. -/
def Obligations.ExtractSinkFailureLosesByte : Prop :=
  ∀ s : State, ready s → 1 ≤ s.bitCounter → sinkRejectsAfter s 0 →
    ∃ t, exec .pkExtract s = .next t ∧ t.fault = some .ioError ∧ t.out = s.out ∧
      (6 ≤ s.bitCounter → t.bitCounter = s.bitCounter - 6 ∧ t.bits = s.bits % (63 * 2 ^ (s.bitCounter - 6))) ∧
      (s.bitCounter ≤ 5 → t.bitCounter = 0 ∧ t.bits = s.bits % (2 ^ s.bitCounter - 1))

/-- PK.DRAIN is the loop `while bit_counter > 5: PK.EXTRACT`, whatever the sink answers: it changes nothing with at most
five bits pending, otherwise it takes a PK.EXTRACT and goes on from there (an exception ends it, since a faulted core
executes nothing). When every `Emit` is accepted it runs `bit_counter div 6` times and leaves `bit_counter mod 6`. -/
def Obligations.DrainLoopsExtract : Prop :=
  encode .pkDrain = .command 0x3#4 {} ∧
  ∀ s : State, ready s →
    (s.bitCounter ≤ 5 → exec .pkDrain s = .next s) ∧
    (5 < s.bitCounter → ∃ t, exec .pkExtract s = .next t ∧ exec .pkDrain s = exec .pkDrain t) ∧
    (sinkAccepts s (s.bitCounter / 6) → ∃ t, exec .pkDrain s = .next t ∧ ready t ∧
      t.out.length = s.out.length + s.bitCounter / 6 ∧ t.bitCounter = s.bitCounter % 6)

/-- PK.DRAIN emits every complete symbol of the window, leaves `bit_counter mod 6` and keeps the rest of the window. -/
def Obligations.DrainEmitsCompleteSymbols : Prop :=
  ∀ s : State, ready s → sinkAccepts s (s.bitCounter / 6) →
    ∃ b, exec .pkDrain s = .next
        { appended (drainedSymbols s.bits s.bitCounter) s with bits := b, bitCounter := s.bitCounter % 6 } ∧
      b % 2 ^ (s.bitCounter % 6) = s.bits % 2 ^ (s.bitCounter % 6)

/-- PK.FLUSH is the loop `while bit_counter > 0: PK.EXTRACT`, whatever the sink answers. When every `Emit` is accepted
it emits `ceil(bit_counter / 6)` bytes and leaves nothing pending. -/
def Obligations.FlushLoopsExtract : Prop :=
  encode .pkFlush = .command 0x4#4 {} ∧
  ∀ s : State, ready s →
    (s.bitCounter = 0 → exec .pkFlush s = .next s) ∧
    (0 < s.bitCounter → ∃ t, exec .pkExtract s = .next t ∧ exec .pkFlush s = exec .pkFlush t) ∧
    (sinkAccepts s ((s.bitCounter + 5) / 6) → ∃ t, exec .pkFlush s = .next t ∧ ready t ∧
      t.out.length = s.out.length + (s.bitCounter + 5) / 6 ∧ t.bitCounter = 0)

/-- PK.FLUSH emits the whole window, `ceil(bit_counter / 6)` bytes, the last padded with zero bits, and leaves nothing
pending. -/
def Obligations.FlushEmitsWholeWindow : Prop :=
  ∀ s : State, ready s → sinkAccepts s ((s.bitCounter + 5) / 6) →
    (flushedSymbols s.bits s.bitCounter).length = (s.bitCounter + 5) / 6 ∧
    ∃ b, exec .pkFlush s = .next
      { appended (flushedSymbols s.bits s.bitCounter) s with bits := b, bitCounter := 0 }

/-- The session law: PK.RESET, then each payload byte fed with or without a PK.DRAIN after it, then PK.FLUSH, emits the
6-bit groups of the payload's bit string. The same without the PK.RESET when nothing is pending, whatever stale bits
`bits` holds. The spec derives this law itself (40_bitpacker.md, Session law). -/
def Obligations.SessionEmitsPayloadSymbols : Prop :=
  ∀ (steps : List (Byte × Bool)) (s : State), ready s →
    sinkAccepts s (symbolCount steps.length) →
    let session := steps.flatMap (fun x => if x.2 then [Instr.pkFeed x.1, .pkDrain] else [.pkFeed x.1]) ++ [.pkFlush]
    let symbols := symbolBytes (steps.map Prod.fst)
    (∃ b, runAll (.pkReset :: session) s = .next { appended symbols s with bits := b, bitCounter := 0 }) ∧
    (s.bitCounter = 0 → ∃ b, runAll session s = .next { appended symbols s with bits := b, bitCounter := 0 })

/-- Bit conservation: a session of `n` payload bytes appends `ceil(8n/6)` bytes, that is `4n/3`, `(4n+2)/3` or
`(4n+1)/3` by `n mod 3`, and the high bits of each are `01`. -/
def Obligations.SessionConservesBits : Prop :=
  ∀ (payload : List Byte) (s : State), ready s → sinkAccepts s (symbolCount payload.length) →
    ∃ t symbols,
      runAll (.pkReset :: payload.flatMap (fun b => [Instr.pkFeed b, .pkDrain]) ++ [.pkFlush]) s = .next t ∧
      t.out = s.out ++ symbols ∧ symbols.length = (8 * payload.length + 5) / 6 ∧
      (payload.length % 3 = 0 → 3 * symbols.length = 4 * payload.length) ∧
      (payload.length % 3 = 1 → 3 * symbols.length = 4 * payload.length + 2) ∧
      (payload.length % 3 = 2 → 3 * symbols.length = 4 * payload.length + 1) ∧
      ∀ b ∈ symbols, b &&& 0xC0#8 = 0x40#8

/-- Every operation the protocol admits keeps `bit_counter` among 0, 2, 4, 6, 8, 10, 12 and `bits` below its bound. -/
def Obligations.AdmittedOperationsKeepPackerBounded : Prop :=
  ∀ (i : Instr) (session : Session) (s t : State), packerBounded s → admitted session s i = true →
    exec i s = .next t → packerBounded t

/-- The reset state meets the packer bound. -/
def Obligations.ResetPackerBounded : Prop :=
  packerBounded State.reset

/-- A run of operations admitted by the protocol, from any state within the packer bound, ends in a state that needs no
more than 18 bits of accumulator and 4 bits of counter. -/
def Obligations.AdmittedRunsFitEighteenBits : Prop :=
  ∀ (is : List Instr) (s t : State) (after : Session), packerBounded s →
    runAdmitted is .closed s = some (after, t) → t.bits < 2 ^ 18 ∧ t.bitCounter < 2 ^ 4

/-- Feeding and draining on the machine is the pure run of the packer that the finite realisation is compared with. -/
def Obligations.FeedDrainIsReferenceRun : Prop :=
  ∀ (payload : List Byte) (s : State), ready s →
    sinkAccepts s (referenceRun payload (s.bits, s.bitCounter)).1.length →
    runAll (payload.flatMap fun b => [Instr.pkFeed b, .pkDrain]) s = .next
      { appended (referenceRun payload (s.bits, s.bitCounter)).1 s with
        bits := (referenceRun payload (s.bits, s.bitCounter)).2.1,
        bitCounter := (referenceRun payload (s.bits, s.bitCounter)).2.2 }

/-- A finite realisation with at least 18 and 4 bits holds exactly the reference values and refuses no feed; each of its
operations is the reference one where the protocol admits it and SIZE_MAX admits its payload, and a payload above
SIZE_MAX is refused (that refusal is log entry 22). -/
def Obligations.FiniteRealisationExact : Prop :=
  ∀ r : Realisation, r.exact = true →
    (∀ payload : List Byte, finiteRun r payload (0, 0) = some (referenceRun payload (0, 0))) ∧
    ∀ (i : Instr) (session : Session) (s : State),
      (packerBounded s → admitted session s i = true → r.acceptsSize (commandSize i) = true →
        finiteExec r i s = exec i s) ∧
      (ready s → r.acceptsSize (commandSize i) = false →
        finiteExec r i s = .refused (.sizeAboveMaximum (commandSize i)))

/-- A realisation of 12 to 17 accumulator bits emits the same bytes; only stale bits may differ. -/
def Obligations.NarrowRealisationSameBytes : Prop :=
  ∀ (r : Realisation) (payload : List Byte), 12 ≤ r.accWidth → 4 ≤ r.bcWidth →
    ∃ b, finiteRun r payload (0, 0)
        = some ((referenceRun payload (0, 0)).1, (b, (referenceRun payload (0, 0)).2.2)) ∧
      b % 2 ^ (referenceRun payload (0, 0)).2.2
        = (referenceRun payload (0, 0)).2.1 % 2 ^ (referenceRun payload (0, 0)).2.2

/-! ## AddressEncoder -/

/-- The digit algorithm has the closed form of the header's bit layout, which the spec derives from it
(41_address_encoder.md, Closed form). -/
def Obligations.HeaderClosedForm : Prop :=
  ∀ (a : Addr) (bank : Bank), addrEnc a bank =
      [0x40#8 ||| (if bank = .three then 0x10#8 else 0x00#8) ||| (a.extractLsb' 12 4).setWidth 8,
       0x40#8 ||| (a.extractLsb' 6 6).setWidth 8,
       0x40#8 ||| (a.extractLsb' 0 6).setWidth 8] ∧
    addrEnc a bank = headerBytes a bank

/-- The header determines address and bank, bank 3 differs from bank 2 in bit 4 of the first byte only, and all three
bytes lie in 0x40 to 0x7F, the first in 0x40 to 0x5F. -/
def Obligations.HeaderDeterminesAddressAndBank : Prop :=
  (∀ (a : Addr) (bank : Bank), ∃ b1 b2 b3, addrEnc a bank = [b1, b2, b3] ∧
    a.toNat = (b1 &&& 0x0F#8).toNat * 4096 + (b2 &&& 0x3F#8).toNat * 64 + (b3 &&& 0x3F#8).toNat ∧
    (bank = .three ↔ b1 &&& 0x10#8 ≠ 0#8) ∧
    0x40 ≤ b1.toNat ∧ b1.toNat ≤ 0x5F ∧ 0x40 ≤ b2.toNat ∧ b2.toNat ≤ 0x7F ∧ 0x40 ≤ b3.toNat ∧ b3.toNat ≤ 0x7F) ∧
  ∀ a : Addr, ∃ b1 b2 b3, addrEnc a .two = [b1, b2, b3] ∧ addrEnc a .three = [b1 ||| 0x10#8, b2, b3]

/-- AE.ENCODE appends the three digits of the algorithm, most significant first, and changes nothing else; when the sink
rejects one of the three `Emit`s, the digits before it stay and the exception is IOError. -/
def Obligations.AddressEncodeAppendsHeader : Prop :=
  ∀ (a : Addr) (bank : Bank) (s : State), ready s →
    let header := [BitVec.ofNat 8 (0x40 + (if bank = .three then 0x10 else 0) + a.toNat / 64 / 64 % 64),
       BitVec.ofNat 8 (0x40 + a.toNat / 64 % 64), BitVec.ofNat 8 (0x40 + a.toNat % 64)]
    encode (.aeEncode a bank)
      = .command 0x5#4 { address := a, bankSel := if bank = .three then 1#1 else 0#1 } ∧
    (sinkAccepts s 3 → exec (.aeEncode a bank) s = .next (appended header s)) ∧
    ∀ k < 3, sinkRejectsAfter s k → exec (.aeEncode a bank) s = .next
      { s with out := s.out ++ header.take k, sinkAnswers := s.sinkAnswers.drop (k + 1), fault := some .ioError }

/-! ## BlockWriter -/

/-- BW.WRITE_BLOCK appends the framed block of the first `len` payload bytes, for each of the five end markers and
whatever the packer held; it loads the operands it carries (which registers they are is log entry 16) and leaves
nothing pending. -/
def Obligations.WriteBlockAppendsFrame : Prop :=
  ∀ (a : Addr) (bank : Bank) (len : Nat) (em : Byte) (s : State), ready s →
    em ∈ [0x21#8, 0x22#8, 0x28#8, 0x29#8, 0x2A#8] → sinkAccepts s (6 + symbolCount len) → sourceDelivers s 0 len →
    ∃ b, exec (.bwWriteBlock a bank len em) s = .next
      { appended (blockBytes a bank (s.pay.take len) em) s with
        startAddr := a, bank := bank, size := len, rdPtr := len, bits := b, bitCounter := 0,
        sourceAnswers := s.sourceAnswers.drop len }

/-- An end marker outside the five values is refused. -/
def Obligations.WriteBlockReservedMarkerRefused : Prop :=
  ∀ (a : Addr) (bank : Bank) (len : Nat) (em : Byte) (s : State), ready s →
    em ∉ [0x21#8, 0x22#8, 0x28#8, 0x29#8, 0x2A#8] →
    exec (.bwWriteBlock a bank len em) s = .refused (.endMarkerReserved em)

/-- The shape of a block on the output: `6 + ceil(8*len/6)` bytes, the start marker, three header bytes and the symbol
bytes all in 0x40 to 0x7F, and one end marker as the last byte (derived in 42_block_writer.md, length and shape). -/
def Obligations.WriteBlockShape : Prop :=
  ∀ (a : Addr) (bank : Bank) (len : Nat) (em : Byte) (s : State), ready s →
    em ∈ [0x21#8, 0x22#8, 0x28#8, 0x29#8, 0x2A#8] → sinkAccepts s (6 + symbolCount len) → sourceDelivers s 0 len →
    ∃ t header symbols, exec (.bwWriteBlock a bank len em) s = .next t ∧
      t.out = s.out ++ [0x1F#8, 0x3C#8] ++ header ++ symbols ++ [em] ∧
      header.length = 3 ∧ symbols.length = (8 * len + 5) / 6 ∧ t.out.length = s.out.length + (6 + (8 * len + 5) / 6) ∧
      (∀ b ∈ header ++ symbols, 0x40 ≤ b.toNat ∧ b.toNat ≤ 0x7F)

/-- A zero-length block reads no byte and is its six framing bytes (the registers it loads are log entry 16). -/
def Obligations.ZeroLengthBlock : Prop :=
  ∀ (a : Addr) (bank : Bank) (em : Byte) (s : State), ready s →
    em ∈ [0x21#8, 0x22#8, 0x28#8, 0x29#8, 0x2A#8] → sinkAccepts s 6 →
    exec (.bwWriteBlock a bank 0 em) s = .next
      { appended ([0x1F#8, 0x3C#8] ++ headerBytes a bank ++ [em]) s with
        startAddr := a, bank := bank, size := 0, rdPtr := 0, bits := 0, bitCounter := 0 }

/-- When the sink rejects an `Emit` inside a block, the output keeps exactly the bytes before it and the exception is
IOError. -/
def Obligations.WriteBlockSinkFailureKeepsPrefix : Prop :=
  ∀ (a : Addr) (bank : Bank) (len : Nat) (em : Byte) (s : State) (k : Nat), ready s →
    em ∈ [0x21#8, 0x22#8, 0x28#8, 0x29#8, 0x2A#8] → k < 6 + symbolCount len → sinkRejectsAfter s k →
    sourceDelivers s 0 len →
    ∃ t, exec (.bwWriteBlock a bank len em) s = .next t ∧ t.fault = some .ioError ∧ t.pay = s.pay ∧
      t.out = s.out ++ (blockBytes a bank (s.pay.take len) em).take k

/-- When the source stops after `m` of the `len` bytes, the output ends with the symbols already complete: no flush
byte, no end marker, no invented byte. So it does when a hardware reset comes at that read (log entry 9), without an
exception. -/
def Obligations.WriteBlockSourceFailureStops : Prop :=
  ∀ (a : Addr) (bank : Bank) (len m : Nat) (em : Byte) (s : State), ready s →
    em ∈ [0x21#8, 0x22#8, 0x28#8, 0x29#8, 0x2A#8] → m < len → sinkAccepts s (5 + 8 * m / 6) →
    let bytes := [0x1F#8, 0x3C#8] ++ headerBytes a bank ++ (symbolBytes (s.pay.take m)).take (8 * m / 6)
    (sourceStopsAfter s 0 m →
      ∃ t, exec (.bwWriteBlock a bank len em) s = .next t ∧ t.fault = some .ioError ∧ t.resetRequest = false ∧
        t.pay = s.pay ∧ t.out = s.out ++ bytes) ∧
    (sourceResetAfter s 0 m →
      ∃ t, exec (.bwWriteBlock a bank len em) s = .next t ∧ t.fault = none ∧ t.resetRequest = true ∧
        t.pay = s.pay ∧ t.out = s.out ++ bytes)

/-- A block can be read back: two BW.WRITE_BLOCKs that append the same bytes had the same address, bank, end marker and
payload bytes. -/
def Obligations.BlockBytesDetermineBlock : Prop :=
  ∀ (a a' : Addr) (bank bank' : Bank) (len len' : Nat) (em em' : Byte) (bytes : List Byte) (s s' t t' : State),
    ready s → ready s' → em ∈ [0x21#8, 0x22#8, 0x28#8, 0x29#8, 0x2A#8] →
    em' ∈ [0x21#8, 0x22#8, 0x28#8, 0x29#8, 0x2A#8] → sinkAccepts s (6 + symbolCount len) →
    sinkAccepts s' (6 + symbolCount len') → sourceDelivers s 0 len → sourceDelivers s' 0 len' →
    exec (.bwWriteBlock a bank len em) s = .next t → exec (.bwWriteBlock a' bank' len' em') s' = .next t' →
    t.out = s.out ++ bytes → t'.out = s'.out ++ bytes →
    a = a' ∧ bank = bank' ∧ em = em' ∧ s.pay.take len = s'.pay.take len'

/-! ## ProgressSplitter -/

/-- PS.START_BLOCK appends the ten bytes of the start sequence (the byte of 'Q' and the length are log entry 14) and
changes nothing else; a row outside 1 to 24 raises
ArgumentError; when the sink rejects one of the `Emit`s, the bytes before it stay and the exception is IOError. -/
def Obligations.StartBlockAppendsSequence : Prop :=
  ∀ (row : BitVec 5) (s : State), ready s →
    let sequence := [0x1F#8, BitVec.ofNat 8 (0x40 + row.toNat), 0x41#8, 0x1D#8, 0x51#8, 0x12#8, 0x67#8, 0x1F#8,
      BitVec.ofNat 8 (0x40 + row.toNat), 0x41#8]
    encode (.psStartBlock row) = .command 0x7#4 { row := row } ∧
    (1 ≤ row.toNat → row.toNat ≤ 24 → sinkAccepts s 10 →
      exec (.psStartBlock row) s = .next (appended sequence s)) ∧
    (row.toNat = 0 ∨ 25 ≤ row.toNat → exec (.psStartBlock row) s = .next { s with fault := some .argumentError }) ∧
    (1 ≤ row.toNat → row.toNat ≤ 24 → ∀ k < 10, sinkRejectsAfter s k → exec (.psStartBlock row) s = .next
      { s with out := s.out ++ sequence.take k, sinkAnswers := s.sinkAnswers.drop (k + 1), fault := some .ioError })

/-- PS.STEP_BLOCK appends the six bytes of the step sequence and changes nothing else; a row outside 1 to 24 raises
ArgumentError whatever the column (that the row is checked first is log entry 17), a column outside 1 to 40 is refused;
when the sink rejects one of the `Emit`s, the bytes before it stay and the exception is IOError. -/
def Obligations.StepBlockAppendsSequence : Prop :=
  ∀ (row : BitVec 5) (col : BitVec 6) (s : State), ready s →
    let sequence := [0x1F#8, BitVec.ofNat 8 (0x40 + row.toNat), BitVec.ofNat 8 (0x40 + col.toNat), 0x1D#8, 0x82#8,
      0x7F#8]
    encode (.psStepBlock row col) = .command 0x8#4 { row := row, col := col } ∧
    (1 ≤ row.toNat → row.toNat ≤ 24 → 1 ≤ col.toNat → col.toNat ≤ 40 → sinkAccepts s 6 →
      exec (.psStepBlock row col) s = .next (appended sequence s)) ∧
    (row.toNat = 0 ∨ 25 ≤ row.toNat →
      exec (.psStepBlock row col) s = .next { s with fault := some .argumentError }) ∧
    (1 ≤ row.toNat → row.toNat ≤ 24 → (col.toNat = 0 ∨ 41 ≤ col.toNat) →
      exec (.psStepBlock row col) s = .refused (.columnOutOfRange col)) ∧
    (1 ≤ row.toNat → row.toNat ≤ 24 → 1 ≤ col.toNat → col.toNat ≤ 40 → ∀ k < 6, sinkRejectsAfter s k →
      exec (.psStepBlock row col) s = .next
        { s with out := s.out ++ sequence.take k, sinkAnswers := s.sinkAnswers.drop (k + 1), fault := some .ioError })

/-- The block-size arithmetic: for `size = 40*q + r` the block size is `q + 1` and the last length `q + r - 39`, not
negative exactly when `q + r ≥ 39`, so for every size from 1521 on, and always below the block size (derived
in 43_progress_splitter.md from its two formulas). -/
def Obligations.BlockSizeArithmetic : Prop :=
  (∀ size : Nat, blockSizeOf size = size / 40 + 1 ∧ 1 ≤ blockSizeOf size ∧
    lastLenOf size = (size : Int) - 39 * (blockSizeOf size : Int)) ∧
  (∀ q r : Nat, r ≤ 39 →
    blockSizeOf (40 * q + r) = q + 1 ∧ lastLenOf (40 * q + r) = (q : Int) + r - 39 ∧
    (0 ≤ lastLenOf (40 * q + r) ↔ 39 ≤ q + r) ∧ lastLenOf (40 * q + r) ≤ q ∧
    (q : Int) = (blockSizeOf (40 * q + r) : Int) - 1 ∧ (q : Int) < blockSizeOf (40 * q + r)) ∧
  ∀ size : Nat, 1521 ≤ size → 0 ≤ lastLenOf size

/-- An admitted split covers the payload: the block lengths the splitter uses are those of the plan, they sum to `size`,
the ranges follow one another from 0, every address formed fits 16 bits, and a 41st, empty entry stands at the start
address. -/
def Obligations.AdmittedSplitCoversPayload : Prop :=
  ∀ (a : Addr) (size : Nat), splitAdmitted a size = true →
    (progressPlan size a.toNat).map PlanEntry.length
      = List.replicate 39 (blockSizeOf size) ++ [(lastLenOf size).toNat, 0] ∧
    39 * blockSizeOf size + (lastLenOf size).toNat = size ∧
    (∀ i e, (progressPlan size a.toNat)[i]? = some e → e.address ≤ 0xFFFF ∧
      (i < 40 → e.first = (((progressPlan size a.toNat).take i).map PlanEntry.length).sum ∧
        e.address = a.toNat + e.first ∧ e.endMarker = 0x22#8)) ∧
    (progressPlan size a.toNat)[40]? = some ⟨a.toNat, size, 0, 0x29#8⟩

/-- An admitted PS.SPLIT appends the start sequence, the 40 data blocks with their steps and the terminator, reads the
whole payload once and leaves the working registers at their final values. The operand registers it loads are log entry
16; that `cur_addr`, `block_size` and `blk_idx` keep these values once it has ended is the model's choice (log entry
21); the bytes of the start sequence are log entry 14. -/
def Obligations.SplitAppendsPlan : Prop :=
  ∀ (a : Addr) (bank : Bank) (size : Nat) (row : BitVec 5) (s : State), ready s → 1 ≤ row.toNat →
    row.toNat ≤ 24 → 39 * (size / 40 + 1) ≤ size → a.toNat + 39 * (size / 40 + 1) ≤ 0xFFFF →
    sinkAccepts s (progressBytes a bank size row s.pay).length → sourceDelivers s 0 size →
    exec (.psSplit a bank size row) s = .next
      { appended (progressBytes a bank size row s.pay) s with
        startAddr := a, bank := bank, size := size, row := row,
        curAddr := BitVec.ofNat 16 (a.toNat + 39 * (size / 40 + 1)), blockSize := size / 40 + 1, blkIdx := 40,
        rdPtr := size, bits := 0, bitCounter := 0, sourceAnswers := s.sourceAnswers.drop size }

/-- A PS.SPLIT with a row outside 1 to 24, a negative last length or an address beyond 0xFFFF raises ArgumentError
before anything is emitted or read. -/
def Obligations.SplitRejectionRaisesArgumentError : Prop :=
  ∀ (a : Addr) (bank : Bank) (size : Nat) (row : BitVec 5) (s : State), ready s →
    (row.toNat = 0 ∨ 25 ≤ row.toNat ∨ size < 39 * (size / 40 + 1) ∨ 0xFFFF < a.toNat + 39 * (size / 40 + 1)) →
    ∃ t, exec (.psSplit a bank size row) s = .next t ∧ t.fault = some .argumentError ∧ t.out = s.out ∧
      t.rdPtr = s.rdPtr ∧ t.pay = s.pay ∧ t.sinkAnswers = s.sinkAnswers ∧ t.sourceAnswers = s.sourceAnswers

/-- The number of bytes an admitted PS.SPLIT appends. The 10 bytes of the start sequence are log entry 14. -/
def Obligations.SplitOutputLength : Prop :=
  ∀ (a : Addr) (bank : Bank) (size n : Nat) (row : BitVec 5) (s : State), ready s → 1 ≤ row.toNat →
    row.toNat ≤ 24 → 39 * (size / 40 + 1) ≤ size → a.toNat + 39 * (size / 40 + 1) ≤ 0xFFFF →
    n = 10 + 39 * (6 + (8 * (size / 40 + 1) + 5) / 6) + (6 + (8 * (size - 39 * (size / 40 + 1)) + 5) / 6) + 40 * 6 + 6 →
    sinkAccepts s n → sourceDelivers s 0 size →
    ∃ t, exec (.psSplit a bank size row) s = .next t ∧ ready t ∧ t.out.length = s.out.length + n

/-! ## Converter -/

/-- CV.CONVERT without a progress row appends the preload and one block with the whole payload and the end marker
EndProgram; the row is ignored, and neither size nor address range is checked. The five operand
registers are loaded (log entry 16). -/
def Obligations.ConvertSingleBlock : Prop :=
  ∀ (a : Addr) (bank : Bank) (size : Nat) (row : BitVec 5) (preload : List Byte) (s : State), ready s →
    sinkAccepts s (preload.length + (6 + symbolCount size)) → sourceDelivers s 0 size →
    ∃ b, exec (.cvConvert a bank size false row preload) s = .next
      { appended (preload ++ blockBytes a bank (s.pay.take size) 0x29#8) s with
        startAddr := a, bank := bank, size := size, rowValid := false, row := row, rdPtr := size, bits := b,
        bitCounter := 0, sourceAnswers := s.sourceAnswers.drop size }

/-- An admitted CV.CONVERT with a progress row appends the preload and the 41-block form; it is then complete. The
five operand registers are loaded (log entry 16); that `cur_addr`, `block_size` and `blk_idx` keep their last values is
the model's choice (log entry 21); the bytes of the start sequence are log entry 14. -/
def Obligations.ConvertProgressMode : Prop :=
  ∀ (a : Addr) (bank : Bank) (size : Nat) (row : BitVec 5) (preload : List Byte) (s : State), ready s →
    1 ≤ row.toNat → row.toNat ≤ 24 → 39 * (size / 40 + 1) ≤ size → a.toNat + 39 * (size / 40 + 1) ≤ 0xFFFF →
    sinkAccepts s (convertBytes a bank size true row preload s.pay).length → sourceDelivers s 0 size →
    ∃ t, exec (.cvConvert a bank size true row preload) s = .next t ∧ converted t size ∧ t =
      { appended (convertBytes a bank size true row preload s.pay) s with
        startAddr := a, bank := bank, size := size, rowValid := true, row := row,
        curAddr := BitVec.ofNat 16 (a.toNat + 39 * (size / 40 + 1)), blockSize := size / 40 + 1, blkIdx := 40,
        rdPtr := size, bits := 0, bitCounter := 0, sourceAnswers := s.sourceAnswers.drop size }

/-- A CV.CONVERT with a progress row that is not admitted raises ArgumentError before anything is emitted, the preload
included, and before anything is read. -/
def Obligations.ConvertRejectionRaisesArgumentError : Prop :=
  ∀ (a : Addr) (bank : Bank) (size : Nat) (row : BitVec 5) (preload : List Byte) (s : State), ready s →
    (row.toNat = 0 ∨ 25 ≤ row.toNat ∨ size < 39 * (size / 40 + 1) ∨ 0xFFFF < a.toNat + 39 * (size / 40 + 1)) →
    ∃ t, exec (.cvConvert a bank size true row preload) s = .next t ∧ t.fault = some .argumentError ∧
      t.out = s.out ∧ t.rdPtr = s.rdPtr ∧ t.pay = s.pay ∧ t.sinkAnswers = s.sinkAnswers ∧
      t.sourceAnswers = s.sourceAnswers

/-- When the sink rejects an `Emit` of an admitted CV.CONVERT, in either mode, the output keeps exactly the bytes before
it and the exception is IOError. When a hardware reset comes at an `Emit`, the running operation stops there with no
exception and the output keeps exactly the bytes before it, until the next step performs the reset (60_exceptions.md;
how the reset arrives is log entry 9, and the bytes of the start sequence are log entry 14). -/
def Obligations.ConvertSinkFailureKeepsPrefix : Prop :=
  ∀ (a : Addr) (bank : Bank) (size : Nat) (rowValid : Bool) (row : BitVec 5) (preload : List Byte) (s : State)
    (k : Nat), ready s →
    (rowValid = true → 1 ≤ row.toNat ∧ row.toNat ≤ 24 ∧ 39 * (size / 40 + 1) ≤ size ∧
      a.toNat + 39 * (size / 40 + 1) ≤ 0xFFFF) →
    k < (convertBytes a bank size rowValid row preload s.pay).length → sourceDelivers s 0 size →
    let bytes := (convertBytes a bank size rowValid row preload s.pay).take k
    (sinkRejectsAfter s k →
      ∃ t, exec (.cvConvert a bank size rowValid row preload) s = .next t ∧ t.fault = some .ioError ∧
        t.resetRequest = false ∧ t.pay = s.pay ∧ t.out = s.out ++ bytes) ∧
    (sinkResetAfter s k →
      ∃ t u, exec (.cvConvert a bank size rowValid row preload) s = .next t ∧ t.fault = none ∧
        t.resetRequest = true ∧ t.pay = s.pay ∧ t.out = s.out ++ bytes ∧
        step t = .next u ∧ u.bits = 0 ∧ u.bitCounter = 0 ∧ u.rdPtr = 0 ∧ u.out = [] ∧ ready u ∧
        u.commands = s.commands)

/-- Nothing of an earlier operation but the exception leaks into a composite: from two states with the same payload and
the same answers of the streams, whatever their registers, packer and output so far, BW.WRITE_BLOCK, PS.SPLIT and
CV.CONVERT append the same bytes and end with the same exception, stopped by the same reset or not. -/
def Obligations.CompositesStartFresh : Prop :=
  ∀ (a : Addr) (bank : Bank) (size : Nat) (em : Byte) (rowValid : Bool) (row : BitVec 5) (preload : List Byte)
    (s t : State), ready s → ready t → s.pay = t.pay → s.sinkAnswers = t.sinkAnswers →
    s.sourceAnswers = t.sourceAnswers → em ∈ [0x21#8, 0x22#8, 0x28#8, 0x29#8, 0x2A#8] →
    ∀ i ∈ [Instr.bwWriteBlock a bank size em, .psSplit a bank size row,
        .cvConvert a bank size rowValid row preload],
      ∃ s' t' bytes, exec i s = .next s' ∧ exec i t = .next t' ∧ s'.out = s.out ++ bytes ∧ t'.out = t.out ++ bytes ∧
        s'.fault = t'.fault ∧ s'.resetRequest = t'.resetRequest

/-- CV.CONVERT with an empty preload is its expansion: BW.WRITE_BLOCK with EndProgram, or PS.SPLIT when admitted,
whatever the streams answer; the registers the two commands load differ as log entry 16 says. -/
def Obligations.ConvertIsItsExpansion : Prop :=
  ∀ (a : Addr) (bank : Bank) (size : Nat) (row : BitVec 5) (s : State), ready s →
    exec (.cvConvert a bank size false row []) s
      = exec (.bwWriteBlock a bank size 0x29#8) { s with rowValid := false, row := row } ∧
    (1 ≤ row.toNat → row.toNat ≤ 24 → 39 * (size / 40 + 1) ≤ size → a.toNat + 39 * (size / 40 + 1) ≤ 0xFFFF →
      exec (.cvConvert a bank size true row []) s = exec (.psSplit a bank size row) { s with rowValid := true })

/-! ## The whole machine -/

/-- No step but a hardware reset removes or rewrites a byte of the output. -/
def Obligations.OutputOnlyGrows : Prop :=
  ∀ s t : State, s.resetRequest = false → step s = .next t → s.out <+: t.out

/-- No step changes the payload; and only a hardware reset clears an exception. -/
def Obligations.PayloadAndExceptionKept : Prop :=
  ∀ s t : State, step s = .next t →
    t.pay = s.pay ∧ (s.resetRequest = false → s.fault ≠ none → t.fault = s.fault)

/-- Every step keeps the working registers in their domains. -/
def Obligations.StepsKeepRegistersInDomain : Prop :=
  ∀ s t : State, registersInDomain s → step s = .next t → registersInDomain t

/-- The reset state has the working registers in their domains. The values of `block_size` and `blk_idx` there are the
model's choice (log entry 3); any value in the domain would do. -/
def Obligations.ResetRegistersInDomain : Prop :=
  registersInDomain State.reset

/-- No operation reads an operand or working register before a command has loaded it: two states that differ only
there give outcomes that differ only there. -/
def Obligations.UnloadedRegistersNeverRead : Prop :=
  ∀ (i : Instr) (s t : State), agreeButUnloaded s t → outcomesAgree (exec i s) (exec i t)

/-- The packer primitives, AE.ENCODE, the markup operations and the wire bytes leave the operand and working registers,
the read pointer and the payload alone, whatever the streams answer. -/
def Obligations.PrimitivesKeepRegisters : Prop :=
  ∀ (i : Instr) (s t : State),
    (∀ a bank len em, i ≠ .bwWriteBlock a bank len em) → (∀ a bank size row, i ≠ .psSplit a bank size row) →
    (∀ a bank size rowValid row preload, i ≠ .cvConvert a bank size rowValid row preload) →
    exec i s = .next t → registersKept s t

/-! ## The wire byte classes -/

/-- A wire byte class of one value appends that byte and changes nothing else. That a bare `Emit` can be issued is the
model's choice (log entry 5), and the byte 0x51 of 'Q' is presumed (log entry 14). -/
def Obligations.FixedWireBytesAppended : Prop :=
  ∀ s : State, ready s → sinkAccepts s 1 → ∀ x ∈
    [(Instr.wireStartMarker0, 0x1F#8), (.wireStartMarker1, 0x3C#8), (.wireEndProgramDefault, 0x21#8),
     (.wireEndDataBlock, 0x22#8), (.wireEndProgramWithStart, 0x28#8), (.wireEndProgram, 0x29#8),
     (.wireEndProgramThenBasic, 0x2A#8), (.wireStartSeq0, 0x1F#8), (.wireStartSeq2, 0x41#8), (.wireStartSeq3, 0x1D#8),
     (.wireStartSeq4, 0x51#8), (.wireStartSeq5, 0x12#8), (.wireStartSeq6, 0x67#8), (.wireStartSeq7, 0x1F#8),
     (.wireStartSeq9, 0x41#8), (.wireStepSeq0, 0x1F#8), (.wireStepSeq3, 0x1D#8), (.wireStepSeq4, 0x82#8),
     (.wireStepSeq5, 0x7F#8)],
    exec x.1 s = .next (appended [x.2] s)

/-- A wire byte class with data bits appends its tagged byte and changes nothing else. That a bare `Emit` can be issued
is the model's choice (log entry 5). -/
def Obligations.TaggedWireBytesAppended : Prop :=
  ∀ s : State, ready s → sinkAccepts s 1 →
    (∀ (bank : Bank) (d : BitVec 4), exec (.wireHeaderB1 bank d) s
      = .next (appended [0b010#3 ++ (if bank = .three then 1#1 else 0#1) ++ d] s)) ∧
    ∀ d : BitVec 6, exec (.wireHeaderB2 d) s = .next (appended [0b01#2 ++ d] s) ∧
      exec (.wireHeaderB3 d) s = .next (appended [0b01#2 ++ d] s) ∧
      exec (.wireSymbol d) s = .next (appended [0b01#2 ++ d] s)

/-- A markup byte with a row or column field appends `0x40 +` the field and changes nothing else; a field the core never
emits is refused. That a bare `Emit` can be issued is the model's choice (log entry 5), the refusal too (log entry
19). -/
def Obligations.MarkupFieldBytesAppended : Prop :=
  ∀ s : State, ready s →
    (∀ row : BitVec 5, ∀ i ∈ [Instr.wireStartSeq1 row, .wireStartSeq8 row, .wireStepSeq1 row],
      (sinkAccepts s 1 → 1 ≤ row.toNat → row.toNat ≤ 24 →
        exec i s = .next (appended [BitVec.ofNat 8 (0x40 + row.toNat)] s)) ∧
      (row.toNat = 0 ∨ 25 ≤ row.toNat → exec i s = .refused (.wireFieldOutOfRange row.toNat))) ∧
    ∀ col : BitVec 6,
      (sinkAccepts s 1 → 1 ≤ col.toNat → col.toNat ≤ 40 →
        exec (.wireStepSeq2 col) s = .next (appended [BitVec.ofNat 8 (0x40 + col.toNat)] s)) ∧
      (col.toNat = 0 ∨ 41 ≤ col.toNat → exec (.wireStepSeq2 col) s = .refused (.wireFieldOutOfRange col.toNat))

/-- An `Emit` the sink rejects appends nothing and raises IOError: every wire byte whose field is in range. That a bare
`Emit` can be issued is the model's choice (log entry 5). -/
def Obligations.RejectedEmitRaisesIOError : Prop :=
  ∀ (i : Instr) (s : State) (slot : WireSlot) (b : Byte), ready s → encode i = .wire slot b →
    i.wellFormed = true → sinkRejectsAfter s 0 →
    exec i s = .next { s with fault := some .ioError, sinkAnswers := s.sinkAnswers.drop 1 }
end

