-- ==== Sys2Proof/Laws/State.lean ====
section
/-! SUPPORT. One lemma per field of State per named update, each true by definition, so that no proof unfolds an
update. -/

namespace Sys2Proof.Machine

open Sys2Proof

/-! ### raise -/

@[simp] theorem raise_bits (e : Exception) (s : State) : (raise e s).bits = s.bits := rfl
@[simp] theorem raise_bitCounter (e : Exception) (s : State) : (raise e s).bitCounter = s.bitCounter := rfl
@[simp] theorem raise_startAddr (e : Exception) (s : State) : (raise e s).startAddr = s.startAddr := rfl
@[simp] theorem raise_bank (e : Exception) (s : State) : (raise e s).bank = s.bank := rfl
@[simp] theorem raise_size (e : Exception) (s : State) : (raise e s).size = s.size := rfl
@[simp] theorem raise_rowValid (e : Exception) (s : State) : (raise e s).rowValid = s.rowValid := rfl
@[simp] theorem raise_row (e : Exception) (s : State) : (raise e s).row = s.row := rfl
@[simp] theorem raise_curAddr (e : Exception) (s : State) : (raise e s).curAddr = s.curAddr := rfl
@[simp] theorem raise_blockSize (e : Exception) (s : State) : (raise e s).blockSize = s.blockSize := rfl
@[simp] theorem raise_blkIdx (e : Exception) (s : State) : (raise e s).blkIdx = s.blkIdx := rfl
@[simp] theorem raise_rdPtr (e : Exception) (s : State) : (raise e s).rdPtr = s.rdPtr := rfl
@[simp] theorem raise_out (e : Exception) (s : State) : (raise e s).out = s.out := rfl
@[simp] theorem raise_pay (e : Exception) (s : State) : (raise e s).pay = s.pay := rfl
@[simp] theorem raise_fault (e : Exception) (s : State) : (raise e s).fault = some e := rfl
@[simp] theorem raise_commands (e : Exception) (s : State) : (raise e s).commands = s.commands := rfl
@[simp] theorem raise_sinkAnswers (e : Exception) (s : State) : (raise e s).sinkAnswers = s.sinkAnswers := rfl
@[simp] theorem raise_sourceAnswers (e : Exception) (s : State) : (raise e s).sourceAnswers = s.sourceAnswers := rfl
@[simp] theorem raise_resetRequest (e : Exception) (s : State) : (raise e s).resetRequest = s.resetRequest := rfl

/-! ### stopForReset -/

@[simp] theorem stopForReset_bits (s : State) : (stopForReset s).bits = s.bits := rfl
@[simp] theorem stopForReset_bitCounter (s : State) : (stopForReset s).bitCounter = s.bitCounter := rfl
@[simp] theorem stopForReset_startAddr (s : State) : (stopForReset s).startAddr = s.startAddr := rfl
@[simp] theorem stopForReset_bank (s : State) : (stopForReset s).bank = s.bank := rfl
@[simp] theorem stopForReset_size (s : State) : (stopForReset s).size = s.size := rfl
@[simp] theorem stopForReset_rowValid (s : State) : (stopForReset s).rowValid = s.rowValid := rfl
@[simp] theorem stopForReset_row (s : State) : (stopForReset s).row = s.row := rfl
@[simp] theorem stopForReset_curAddr (s : State) : (stopForReset s).curAddr = s.curAddr := rfl
@[simp] theorem stopForReset_blockSize (s : State) : (stopForReset s).blockSize = s.blockSize := rfl
@[simp] theorem stopForReset_blkIdx (s : State) : (stopForReset s).blkIdx = s.blkIdx := rfl
@[simp] theorem stopForReset_rdPtr (s : State) : (stopForReset s).rdPtr = s.rdPtr := rfl
@[simp] theorem stopForReset_out (s : State) : (stopForReset s).out = s.out := rfl
@[simp] theorem stopForReset_pay (s : State) : (stopForReset s).pay = s.pay := rfl
@[simp] theorem stopForReset_fault (s : State) : (stopForReset s).fault = s.fault := rfl
@[simp] theorem stopForReset_commands (s : State) : (stopForReset s).commands = s.commands := rfl
@[simp] theorem stopForReset_sinkAnswers (s : State) : (stopForReset s).sinkAnswers = s.sinkAnswers := rfl
@[simp] theorem stopForReset_sourceAnswers (s : State) : (stopForReset s).sourceAnswers = s.sourceAnswers := rfl
@[simp] theorem stopForReset_resetRequest (s : State) : (stopForReset s).resetRequest = true := rfl

/-! ### packerReset -/

@[simp] theorem packerReset_bits (s : State) : (packerReset s).bits = 0 := rfl
@[simp] theorem packerReset_bitCounter (s : State) : (packerReset s).bitCounter = 0 := rfl
@[simp] theorem packerReset_startAddr (s : State) : (packerReset s).startAddr = s.startAddr := rfl
@[simp] theorem packerReset_bank (s : State) : (packerReset s).bank = s.bank := rfl
@[simp] theorem packerReset_size (s : State) : (packerReset s).size = s.size := rfl
@[simp] theorem packerReset_rowValid (s : State) : (packerReset s).rowValid = s.rowValid := rfl
@[simp] theorem packerReset_row (s : State) : (packerReset s).row = s.row := rfl
@[simp] theorem packerReset_curAddr (s : State) : (packerReset s).curAddr = s.curAddr := rfl
@[simp] theorem packerReset_blockSize (s : State) : (packerReset s).blockSize = s.blockSize := rfl
@[simp] theorem packerReset_blkIdx (s : State) : (packerReset s).blkIdx = s.blkIdx := rfl
@[simp] theorem packerReset_rdPtr (s : State) : (packerReset s).rdPtr = s.rdPtr := rfl
@[simp] theorem packerReset_out (s : State) : (packerReset s).out = s.out := rfl
@[simp] theorem packerReset_pay (s : State) : (packerReset s).pay = s.pay := rfl
@[simp] theorem packerReset_fault (s : State) : (packerReset s).fault = s.fault := rfl
@[simp] theorem packerReset_commands (s : State) : (packerReset s).commands = s.commands := rfl
@[simp] theorem packerReset_sinkAnswers (s : State) : (packerReset s).sinkAnswers = s.sinkAnswers := rfl
@[simp] theorem packerReset_sourceAnswers (s : State) : (packerReset s).sourceAnswers = s.sourceAnswers := rfl
@[simp] theorem packerReset_resetRequest (s : State) : (packerReset s).resetRequest = s.resetRequest := rfl

/-! ### packerFeed -/

@[simp] theorem packerFeed_bits (b : Byte) (s : State) : (packerFeed b s).bits = s.bits * 256 + b.toNat := rfl
@[simp] theorem packerFeed_bitCounter (b : Byte) (s : State) : (packerFeed b s).bitCounter = s.bitCounter + 8 := rfl
@[simp] theorem packerFeed_startAddr (b : Byte) (s : State) : (packerFeed b s).startAddr = s.startAddr := rfl
@[simp] theorem packerFeed_bank (b : Byte) (s : State) : (packerFeed b s).bank = s.bank := rfl
@[simp] theorem packerFeed_size (b : Byte) (s : State) : (packerFeed b s).size = s.size := rfl
@[simp] theorem packerFeed_rowValid (b : Byte) (s : State) : (packerFeed b s).rowValid = s.rowValid := rfl
@[simp] theorem packerFeed_row (b : Byte) (s : State) : (packerFeed b s).row = s.row := rfl
@[simp] theorem packerFeed_curAddr (b : Byte) (s : State) : (packerFeed b s).curAddr = s.curAddr := rfl
@[simp] theorem packerFeed_blockSize (b : Byte) (s : State) : (packerFeed b s).blockSize = s.blockSize := rfl
@[simp] theorem packerFeed_blkIdx (b : Byte) (s : State) : (packerFeed b s).blkIdx = s.blkIdx := rfl
@[simp] theorem packerFeed_rdPtr (b : Byte) (s : State) : (packerFeed b s).rdPtr = s.rdPtr := rfl
@[simp] theorem packerFeed_out (b : Byte) (s : State) : (packerFeed b s).out = s.out := rfl
@[simp] theorem packerFeed_pay (b : Byte) (s : State) : (packerFeed b s).pay = s.pay := rfl
@[simp] theorem packerFeed_fault (b : Byte) (s : State) : (packerFeed b s).fault = s.fault := rfl
@[simp] theorem packerFeed_commands (b : Byte) (s : State) : (packerFeed b s).commands = s.commands := rfl
@[simp] theorem packerFeed_sinkAnswers (b : Byte) (s : State) : (packerFeed b s).sinkAnswers = s.sinkAnswers := rfl
@[simp] theorem packerFeed_sourceAnswers (b : Byte) (s : State) : (packerFeed b s).sourceAnswers = s.sourceAnswers := rfl
@[simp] theorem packerFeed_resetRequest (b : Byte) (s : State) : (packerFeed b s).resetRequest = s.resetRequest := rfl

/-! ### loadBlockOperands -/

@[simp] theorem loadBlockOperands_bits (a : Addr) (k : Bank) (n : Nat) (s : State) : (loadBlockOperands a k n s).bits = s.bits := rfl
@[simp] theorem loadBlockOperands_bitCounter (a : Addr) (k : Bank) (n : Nat) (s : State) : (loadBlockOperands a k n s).bitCounter = s.bitCounter := rfl
@[simp] theorem loadBlockOperands_startAddr (a : Addr) (k : Bank) (n : Nat) (s : State) : (loadBlockOperands a k n s).startAddr = a := rfl
@[simp] theorem loadBlockOperands_bank (a : Addr) (k : Bank) (n : Nat) (s : State) : (loadBlockOperands a k n s).bank = k := rfl
@[simp] theorem loadBlockOperands_size (a : Addr) (k : Bank) (n : Nat) (s : State) : (loadBlockOperands a k n s).size = n := rfl
@[simp] theorem loadBlockOperands_rowValid (a : Addr) (k : Bank) (n : Nat) (s : State) : (loadBlockOperands a k n s).rowValid = s.rowValid := rfl
@[simp] theorem loadBlockOperands_row (a : Addr) (k : Bank) (n : Nat) (s : State) : (loadBlockOperands a k n s).row = s.row := rfl
@[simp] theorem loadBlockOperands_curAddr (a : Addr) (k : Bank) (n : Nat) (s : State) : (loadBlockOperands a k n s).curAddr = s.curAddr := rfl
@[simp] theorem loadBlockOperands_blockSize (a : Addr) (k : Bank) (n : Nat) (s : State) : (loadBlockOperands a k n s).blockSize = s.blockSize := rfl
@[simp] theorem loadBlockOperands_blkIdx (a : Addr) (k : Bank) (n : Nat) (s : State) : (loadBlockOperands a k n s).blkIdx = s.blkIdx := rfl
@[simp] theorem loadBlockOperands_rdPtr (a : Addr) (k : Bank) (n : Nat) (s : State) : (loadBlockOperands a k n s).rdPtr = 0 := rfl
@[simp] theorem loadBlockOperands_out (a : Addr) (k : Bank) (n : Nat) (s : State) : (loadBlockOperands a k n s).out = s.out := rfl
@[simp] theorem loadBlockOperands_pay (a : Addr) (k : Bank) (n : Nat) (s : State) : (loadBlockOperands a k n s).pay = s.pay := rfl
@[simp] theorem loadBlockOperands_fault (a : Addr) (k : Bank) (n : Nat) (s : State) : (loadBlockOperands a k n s).fault = s.fault := rfl
@[simp] theorem loadBlockOperands_commands (a : Addr) (k : Bank) (n : Nat) (s : State) : (loadBlockOperands a k n s).commands = s.commands := rfl
@[simp] theorem loadBlockOperands_sinkAnswers (a : Addr) (k : Bank) (n : Nat) (s : State) : (loadBlockOperands a k n s).sinkAnswers = s.sinkAnswers := rfl
@[simp] theorem loadBlockOperands_sourceAnswers (a : Addr) (k : Bank) (n : Nat) (s : State) : (loadBlockOperands a k n s).sourceAnswers = s.sourceAnswers := rfl
@[simp] theorem loadBlockOperands_resetRequest (a : Addr) (k : Bank) (n : Nat) (s : State) : (loadBlockOperands a k n s).resetRequest = s.resetRequest := rfl

/-! ### loadSplitOperands -/

@[simp] theorem loadSplitOperands_bits (a : Addr) (k : Bank) (n : Nat) (r : BitVec 5) (s : State) : (loadSplitOperands a k n r s).bits = s.bits := rfl
@[simp] theorem loadSplitOperands_bitCounter (a : Addr) (k : Bank) (n : Nat) (r : BitVec 5) (s : State) : (loadSplitOperands a k n r s).bitCounter = s.bitCounter := rfl
@[simp] theorem loadSplitOperands_startAddr (a : Addr) (k : Bank) (n : Nat) (r : BitVec 5) (s : State) : (loadSplitOperands a k n r s).startAddr = a := rfl
@[simp] theorem loadSplitOperands_bank (a : Addr) (k : Bank) (n : Nat) (r : BitVec 5) (s : State) : (loadSplitOperands a k n r s).bank = k := rfl
@[simp] theorem loadSplitOperands_size (a : Addr) (k : Bank) (n : Nat) (r : BitVec 5) (s : State) : (loadSplitOperands a k n r s).size = n := rfl
@[simp] theorem loadSplitOperands_rowValid (a : Addr) (k : Bank) (n : Nat) (r : BitVec 5) (s : State) : (loadSplitOperands a k n r s).rowValid = s.rowValid := rfl
@[simp] theorem loadSplitOperands_row (a : Addr) (k : Bank) (n : Nat) (r : BitVec 5) (s : State) : (loadSplitOperands a k n r s).row = r := rfl
@[simp] theorem loadSplitOperands_curAddr (a : Addr) (k : Bank) (n : Nat) (r : BitVec 5) (s : State) : (loadSplitOperands a k n r s).curAddr = s.curAddr := rfl
@[simp] theorem loadSplitOperands_blockSize (a : Addr) (k : Bank) (n : Nat) (r : BitVec 5) (s : State) : (loadSplitOperands a k n r s).blockSize = s.blockSize := rfl
@[simp] theorem loadSplitOperands_blkIdx (a : Addr) (k : Bank) (n : Nat) (r : BitVec 5) (s : State) : (loadSplitOperands a k n r s).blkIdx = s.blkIdx := rfl
@[simp] theorem loadSplitOperands_rdPtr (a : Addr) (k : Bank) (n : Nat) (r : BitVec 5) (s : State) : (loadSplitOperands a k n r s).rdPtr = s.rdPtr := rfl
@[simp] theorem loadSplitOperands_out (a : Addr) (k : Bank) (n : Nat) (r : BitVec 5) (s : State) : (loadSplitOperands a k n r s).out = s.out := rfl
@[simp] theorem loadSplitOperands_pay (a : Addr) (k : Bank) (n : Nat) (r : BitVec 5) (s : State) : (loadSplitOperands a k n r s).pay = s.pay := rfl
@[simp] theorem loadSplitOperands_fault (a : Addr) (k : Bank) (n : Nat) (r : BitVec 5) (s : State) : (loadSplitOperands a k n r s).fault = s.fault := rfl
@[simp] theorem loadSplitOperands_commands (a : Addr) (k : Bank) (n : Nat) (r : BitVec 5) (s : State) : (loadSplitOperands a k n r s).commands = s.commands := rfl
@[simp] theorem loadSplitOperands_sinkAnswers (a : Addr) (k : Bank) (n : Nat) (r : BitVec 5) (s : State) : (loadSplitOperands a k n r s).sinkAnswers = s.sinkAnswers := rfl
@[simp] theorem loadSplitOperands_sourceAnswers (a : Addr) (k : Bank) (n : Nat) (r : BitVec 5) (s : State) : (loadSplitOperands a k n r s).sourceAnswers = s.sourceAnswers := rfl
@[simp] theorem loadSplitOperands_resetRequest (a : Addr) (k : Bank) (n : Nat) (r : BitVec 5) (s : State) : (loadSplitOperands a k n r s).resetRequest = s.resetRequest := rfl

/-! ### loadConvertOperands -/

@[simp] theorem loadConvertOperands_bits (a : Addr) (k : Bank) (n : Nat) (v : Bool) (r : BitVec 5) (s : State) : (loadConvertOperands a k n v r s).bits = s.bits := rfl
@[simp] theorem loadConvertOperands_bitCounter (a : Addr) (k : Bank) (n : Nat) (v : Bool) (r : BitVec 5) (s : State) : (loadConvertOperands a k n v r s).bitCounter = s.bitCounter := rfl
@[simp] theorem loadConvertOperands_startAddr (a : Addr) (k : Bank) (n : Nat) (v : Bool) (r : BitVec 5) (s : State) : (loadConvertOperands a k n v r s).startAddr = a := rfl
@[simp] theorem loadConvertOperands_bank (a : Addr) (k : Bank) (n : Nat) (v : Bool) (r : BitVec 5) (s : State) : (loadConvertOperands a k n v r s).bank = k := rfl
@[simp] theorem loadConvertOperands_size (a : Addr) (k : Bank) (n : Nat) (v : Bool) (r : BitVec 5) (s : State) : (loadConvertOperands a k n v r s).size = n := rfl
@[simp] theorem loadConvertOperands_rowValid (a : Addr) (k : Bank) (n : Nat) (v : Bool) (r : BitVec 5) (s : State) : (loadConvertOperands a k n v r s).rowValid = v := rfl
@[simp] theorem loadConvertOperands_row (a : Addr) (k : Bank) (n : Nat) (v : Bool) (r : BitVec 5) (s : State) : (loadConvertOperands a k n v r s).row = r := rfl
@[simp] theorem loadConvertOperands_curAddr (a : Addr) (k : Bank) (n : Nat) (v : Bool) (r : BitVec 5) (s : State) : (loadConvertOperands a k n v r s).curAddr = s.curAddr := rfl
@[simp] theorem loadConvertOperands_blockSize (a : Addr) (k : Bank) (n : Nat) (v : Bool) (r : BitVec 5) (s : State) : (loadConvertOperands a k n v r s).blockSize = s.blockSize := rfl
@[simp] theorem loadConvertOperands_blkIdx (a : Addr) (k : Bank) (n : Nat) (v : Bool) (r : BitVec 5) (s : State) : (loadConvertOperands a k n v r s).blkIdx = s.blkIdx := rfl
@[simp] theorem loadConvertOperands_rdPtr (a : Addr) (k : Bank) (n : Nat) (v : Bool) (r : BitVec 5) (s : State) : (loadConvertOperands a k n v r s).rdPtr = s.rdPtr := rfl
@[simp] theorem loadConvertOperands_out (a : Addr) (k : Bank) (n : Nat) (v : Bool) (r : BitVec 5) (s : State) : (loadConvertOperands a k n v r s).out = s.out := rfl
@[simp] theorem loadConvertOperands_pay (a : Addr) (k : Bank) (n : Nat) (v : Bool) (r : BitVec 5) (s : State) : (loadConvertOperands a k n v r s).pay = s.pay := rfl
@[simp] theorem loadConvertOperands_fault (a : Addr) (k : Bank) (n : Nat) (v : Bool) (r : BitVec 5) (s : State) : (loadConvertOperands a k n v r s).fault = s.fault := rfl
@[simp] theorem loadConvertOperands_commands (a : Addr) (k : Bank) (n : Nat) (v : Bool) (r : BitVec 5) (s : State) : (loadConvertOperands a k n v r s).commands = s.commands := rfl
@[simp] theorem loadConvertOperands_sinkAnswers (a : Addr) (k : Bank) (n : Nat) (v : Bool) (r : BitVec 5) (s : State) : (loadConvertOperands a k n v r s).sinkAnswers = s.sinkAnswers := rfl
@[simp] theorem loadConvertOperands_sourceAnswers (a : Addr) (k : Bank) (n : Nat) (v : Bool) (r : BitVec 5) (s : State) : (loadConvertOperands a k n v r s).sourceAnswers = s.sourceAnswers := rfl
@[simp] theorem loadConvertOperands_resetRequest (a : Addr) (k : Bank) (n : Nat) (v : Bool) (r : BitVec 5) (s : State) : (loadConvertOperands a k n v r s).resetRequest = s.resetRequest := rfl

/-! ### offerFirst -/

@[simp] theorem offerFirst_bits (c : Record) (s : State) : (offerFirst c s).bits = s.bits := rfl
@[simp] theorem offerFirst_bitCounter (c : Record) (s : State) : (offerFirst c s).bitCounter = s.bitCounter := rfl
@[simp] theorem offerFirst_startAddr (c : Record) (s : State) : (offerFirst c s).startAddr = s.startAddr := rfl
@[simp] theorem offerFirst_bank (c : Record) (s : State) : (offerFirst c s).bank = s.bank := rfl
@[simp] theorem offerFirst_size (c : Record) (s : State) : (offerFirst c s).size = s.size := rfl
@[simp] theorem offerFirst_rowValid (c : Record) (s : State) : (offerFirst c s).rowValid = s.rowValid := rfl
@[simp] theorem offerFirst_row (c : Record) (s : State) : (offerFirst c s).row = s.row := rfl
@[simp] theorem offerFirst_curAddr (c : Record) (s : State) : (offerFirst c s).curAddr = s.curAddr := rfl
@[simp] theorem offerFirst_blockSize (c : Record) (s : State) : (offerFirst c s).blockSize = s.blockSize := rfl
@[simp] theorem offerFirst_blkIdx (c : Record) (s : State) : (offerFirst c s).blkIdx = s.blkIdx := rfl
@[simp] theorem offerFirst_rdPtr (c : Record) (s : State) : (offerFirst c s).rdPtr = s.rdPtr := rfl
@[simp] theorem offerFirst_out (c : Record) (s : State) : (offerFirst c s).out = s.out := rfl
@[simp] theorem offerFirst_pay (c : Record) (s : State) : (offerFirst c s).pay = s.pay := rfl
@[simp] theorem offerFirst_fault (c : Record) (s : State) : (offerFirst c s).fault = s.fault := rfl
@[simp] theorem offerFirst_commands (c : Record) (s : State) : (offerFirst c s).commands = c :: s.commands := rfl
@[simp] theorem offerFirst_sinkAnswers (c : Record) (s : State) : (offerFirst c s).sinkAnswers = s.sinkAnswers := rfl
@[simp] theorem offerFirst_sourceAnswers (c : Record) (s : State) : (offerFirst c s).sourceAnswers = s.sourceAnswers := rfl
@[simp] theorem offerFirst_resetRequest (c : Record) (s : State) : (offerFirst c s).resetRequest = false := rfl

/-! ### appended -/

@[simp] theorem appended_bits (bs : List Byte) (s : State) : (Reference.appended bs s).bits = s.bits := rfl
@[simp] theorem appended_bitCounter (bs : List Byte) (s : State) : (Reference.appended bs s).bitCounter = s.bitCounter := rfl
@[simp] theorem appended_startAddr (bs : List Byte) (s : State) : (Reference.appended bs s).startAddr = s.startAddr := rfl
@[simp] theorem appended_bank (bs : List Byte) (s : State) : (Reference.appended bs s).bank = s.bank := rfl
@[simp] theorem appended_size (bs : List Byte) (s : State) : (Reference.appended bs s).size = s.size := rfl
@[simp] theorem appended_rowValid (bs : List Byte) (s : State) : (Reference.appended bs s).rowValid = s.rowValid := rfl
@[simp] theorem appended_row (bs : List Byte) (s : State) : (Reference.appended bs s).row = s.row := rfl
@[simp] theorem appended_curAddr (bs : List Byte) (s : State) : (Reference.appended bs s).curAddr = s.curAddr := rfl
@[simp] theorem appended_blockSize (bs : List Byte) (s : State) : (Reference.appended bs s).blockSize = s.blockSize := rfl
@[simp] theorem appended_blkIdx (bs : List Byte) (s : State) : (Reference.appended bs s).blkIdx = s.blkIdx := rfl
@[simp] theorem appended_rdPtr (bs : List Byte) (s : State) : (Reference.appended bs s).rdPtr = s.rdPtr := rfl
@[simp] theorem appended_out (bs : List Byte) (s : State) : (Reference.appended bs s).out = s.out ++ bs := rfl
@[simp] theorem appended_pay (bs : List Byte) (s : State) : (Reference.appended bs s).pay = s.pay := rfl
@[simp] theorem appended_fault (bs : List Byte) (s : State) : (Reference.appended bs s).fault = s.fault := rfl
@[simp] theorem appended_commands (bs : List Byte) (s : State) : (Reference.appended bs s).commands = s.commands := rfl
@[simp] theorem appended_sinkAnswers (bs : List Byte) (s : State) : (Reference.appended bs s).sinkAnswers = s.sinkAnswers.drop bs.length := rfl
@[simp] theorem appended_sourceAnswers (bs : List Byte) (s : State) : (Reference.appended bs s).sourceAnswers = s.sourceAnswers := rfl
@[simp] theorem appended_resetRequest (bs : List Byte) (s : State) : (Reference.appended bs s).resetRequest = s.resetRequest := rfl

/-! ### hardwareReset -/

@[simp] theorem hardwareReset_bits (s : State) : (hardwareReset s).bits = State.reset.bits := rfl
@[simp] theorem hardwareReset_bitCounter (s : State) : (hardwareReset s).bitCounter = State.reset.bitCounter := rfl
@[simp] theorem hardwareReset_startAddr (s : State) : (hardwareReset s).startAddr = State.reset.startAddr := rfl
@[simp] theorem hardwareReset_bank (s : State) : (hardwareReset s).bank = State.reset.bank := rfl
@[simp] theorem hardwareReset_size (s : State) : (hardwareReset s).size = State.reset.size := rfl
@[simp] theorem hardwareReset_rowValid (s : State) : (hardwareReset s).rowValid = State.reset.rowValid := rfl
@[simp] theorem hardwareReset_row (s : State) : (hardwareReset s).row = State.reset.row := rfl
@[simp] theorem hardwareReset_curAddr (s : State) : (hardwareReset s).curAddr = State.reset.curAddr := rfl
@[simp] theorem hardwareReset_blockSize (s : State) : (hardwareReset s).blockSize = State.reset.blockSize := rfl
@[simp] theorem hardwareReset_blkIdx (s : State) : (hardwareReset s).blkIdx = State.reset.blkIdx := rfl
@[simp] theorem hardwareReset_rdPtr (s : State) : (hardwareReset s).rdPtr = State.reset.rdPtr := rfl
@[simp] theorem hardwareReset_out (s : State) : (hardwareReset s).out = State.reset.out := rfl
@[simp] theorem hardwareReset_pay (s : State) : (hardwareReset s).pay = s.pay := rfl
@[simp] theorem hardwareReset_fault (s : State) : (hardwareReset s).fault = State.reset.fault := rfl
@[simp] theorem hardwareReset_commands (s : State) : (hardwareReset s).commands = s.commands := rfl
@[simp] theorem hardwareReset_sinkAnswers (s : State) : (hardwareReset s).sinkAnswers = s.sinkAnswers := rfl
@[simp] theorem hardwareReset_sourceAnswers (s : State) : (hardwareReset s).sourceAnswers = s.sourceAnswers := rfl
@[simp] theorem hardwareReset_resetRequest (s : State) : (hardwareReset s).resetRequest = State.reset.resetRequest := rfl

end Sys2Proof.Machine
end

