-- ==== Sys2Proof/Laws/Ops.lean ====
section
/-! SUPPORT. What each shared operation can do, said once: sequencing, the two stream accesses, the accumulator. -/

namespace Sys2Proof.Machine

open Sys2Proof Sys2Proof.Safety Sys2Proof.Reference

/-! ### Sequencing -/

theorem andThen_of_ready {s : State} (h : ready s) (f : State → State) : andThen s f = f s :=
  if_pos h

theorem andThen_of_not_ready {s : State} (h : ¬ ready s) (f : State → State) : andThen s f = s :=
  if_neg h

theorem not_ready_of_fault {s : State} {e : Exception} (h : s.fault = some e) : ¬ ready s := by
  simp [ready, h]

theorem not_ready_of_reset {s : State} (h : s.resetRequest = true) : ¬ ready s := by
  simp [ready, h]

/-- `andThen` either runs the next part, nothing having been raised and no reset having come, or stops where it is. -/
theorem andThen_cases (s : State) (f : State → State) :
    (ready s ∧ andThen s f = f s) ∨ (¬ ready s ∧ andThen s f = s) := by
  by_cases h : ready s
  · exact .inl ⟨h, andThen_of_ready h f⟩
  · exact .inr ⟨h, andThen_of_not_ready h f⟩

/-- A property that the first part establishes and the next part keeps holds after both. -/
theorem andThen_keeps {P : State → Prop} {s : State} {f : State → State} (hs : P s)
    (hf : ready s → P s → P (f s)) : P (andThen s f) := by
  rcases andThen_cases s f with ⟨h, e⟩ | ⟨-, e⟩
  · rw [e]; exact hf h hs
  · rw [e]; exact hs

theorem whenReady_of_ready {s : State} (h : ready s) (f : State → Host.Outcome State Fault Refusal) :
    whenReady s f = f s :=
  if_pos h

theorem whenReady_of_not_ready {s : State} (h : ¬ ready s) (f : State → Host.Outcome State Fault Refusal) :
    whenReady s f = .next s :=
  if_neg h

/-! ### The output stream -/

theorem appended_nil (s : State) : appended [] s = s := by
  simp [appended]

theorem appended_appended (as bs : List Byte) (s : State) :
    appended bs (appended as s) = appended (as ++ bs) s := by
  simp [appended, List.drop_drop]

theorem ready_appended (bs : List Byte) {s : State} (h : ready s) : ready (appended bs s) := h

/-- What `emit` can do: append the byte and use up an accepting answer, raise IOError and use up a rejection, or stop
for a hardware reset. -/
theorem emit_cases (b : Byte) (s : State) :
    (sinkAccepts s 1 ∧ emit b s = appended [b] s) ∨
    (∃ rest, s.sinkAnswers = .failed :: rest ∧ emit b s = raise .ioError { s with sinkAnswers := rest }) ∨
    (∃ rest, s.sinkAnswers = .reset :: rest ∧ emit b s = stopForReset { s with sinkAnswers := rest }) := by
  unfold emit appended
  split <;> rename_i h
  · exact .inl (by simp [sinkAccepts, h])
  · exact .inl (by simp [sinkAccepts, h])
  · exact .inr (.inl ⟨_, h, rfl⟩)
  · exact .inr (.inr ⟨_, h, rfl⟩)

theorem emit_of_accepts {s : State} (h : sinkAccepts s 1) (b : Byte) : emit b s = appended [b] s := by
  rcases emit_cases b s with ⟨-, e⟩ | ⟨rest, hr, -⟩ | ⟨rest, hr, -⟩
  · exact e
  · simp [sinkAccepts, hr] at h
  · simp [sinkAccepts, hr] at h

theorem sinkAccepts_mono {s : State} {m n : Nat} (h : sinkAccepts s n) (hmn : m ≤ n) : sinkAccepts s m := by
  intro a ha
  exact h a (List.take_subset_take_left _ hmn ha)

theorem sinkAccepts_appended {s : State} {n : Nat} (bs : List Byte) (h : sinkAccepts s (bs.length + n)) :
    sinkAccepts (appended bs s) n := by
  intro a ha
  refine h a ?_
  rw [appended_sinkAnswers, List.take_drop] at ha
  exact List.mem_of_mem_drop ha

/-- A sequence the sink accepts is appended whole. -/
theorem emitSeq_of_accepts (bs : List Byte) {s : State} (hf : ready s) (h : sinkAccepts s bs.length) :
    emitSeq bs s = appended bs s := by
  induction bs generalizing s with
  | nil => exact (appended_nil s).symm
  | cons b bs ih =>
    have h1 : emit b s = appended [b] s := emit_of_accepts (sinkAccepts_mono h (by simp)) b
    have h2 : sinkAccepts (appended [b] s) bs.length :=
      sinkAccepts_appended [b] (by rw [List.length_singleton, Nat.add_comm]; exact h)
    rw [emitSeq, h1, andThen_of_ready (ready_appended [b] hf), ih (ready_appended [b] hf) h2, appended_appended]
    rfl

/-- What `emitSeq` can do: append everything, or append a proper prefix and, at the next byte, raise IOError or stop for
a hardware reset. -/
theorem emitSeq_cases (bs : List Byte) {s : State} (hf : ready s) :
    (sinkAccepts s bs.length ∧ emitSeq bs s = appended bs s) ∨
    (∃ k, k < bs.length ∧ sinkRejectsAfter s k ∧
      emitSeq bs s = raise .ioError { appended (bs.take k) s with sinkAnswers := s.sinkAnswers.drop (k + 1) }) ∨
    (∃ k, k < bs.length ∧ sinkResetAfter s k ∧
      emitSeq bs s = stopForReset { appended (bs.take k) s with sinkAnswers := s.sinkAnswers.drop (k + 1) }) := by
  induction bs generalizing s with
  | nil => exact .inl ⟨by simp [sinkAccepts], (appended_nil s).symm⟩
  | cons b bs ih =>
    rcases emit_cases b s with ⟨ha, e⟩ | ⟨rest, hr, e⟩ | ⟨rest, hr, e⟩
    · rw [emitSeq, e, andThen_of_ready (ready_appended [b] hf)]
      have accepts : ∀ {n}, sinkAccepts (appended [b] s) n → sinkAccepts s (n + 1) := by
        intro n h a hm
        cases hs : s.sinkAnswers with
        | nil => simp [hs] at hm
        | cons x xs =>
          rw [hs, List.take_succ_cons, List.mem_cons] at hm
          rcases hm with rfl | hm
          · exact ha _ (by simp [hs])
          · exact h a (by simpa [hs] using hm)
      rcases ih (ready_appended [b] hf) with ⟨hb, e2⟩ | ⟨k, hk, hrej, e2⟩ | ⟨k, hk, hres, e2⟩
      · exact .inl ⟨accepts hb, by rw [e2, appended_appended]; rfl⟩
      · refine .inr (.inl ⟨k + 1, by simpa using hk, ⟨accepts hrej.1, ?_⟩, ?_⟩)
        · simpa [Nat.add_comm] using hrej.2
        · rw [e2]
          simp [appended, raise, Nat.add_comm, Nat.add_left_comm]
      · refine .inr (.inr ⟨k + 1, by simpa using hk, ⟨accepts hres.1, ?_⟩, ?_⟩)
        · simpa [Nat.add_comm] using hres.2
        · rw [e2]
          simp [appended, stopForReset, Nat.add_comm, Nat.add_left_comm]
    · refine .inr (.inl ⟨0, by simp, ⟨by simp [sinkAccepts], by simp [hr]⟩, ?_⟩)
      rw [emitSeq, e, andThen_of_not_ready (not_ready_of_fault (e := .ioError) rfl)]
      simp [appended, raise, hr]
    · refine .inr (.inr ⟨0, by simp, ⟨by simp [sinkAccepts], by simp [hr]⟩, ?_⟩)
      rw [emitSeq, e, andThen_of_not_ready (not_ready_of_reset rfl)]
      simp [appended, stopForReset, hr]

/-! ### The payload source -/

/-- What a read can do: hand the next byte on with the read pointer advanced, raise IOError with it in place, or stop
for a hardware reset. -/
theorem readByteThen_cases (use : Byte → State → State) (s : State) :
    (∃ b, s.pay[s.rdPtr]? = some b ∧ (∀ a ∈ s.sourceAnswers.take 1, a = .accepted) ∧
      readByteThen use s = use b { s with rdPtr := s.rdPtr + 1, sourceAnswers := s.sourceAnswers.drop 1 }) ∨
    ((s.pay[s.rdPtr]? = none ∧ s.sourceAnswers[0]? ≠ some .reset ∨ s.sourceAnswers[0]? = some .failed) ∧
      readByteThen use s = raise .ioError { s with sourceAnswers := s.sourceAnswers.drop 1 }) ∨
    (s.sourceAnswers[0]? = some .reset ∧
      readByteThen use s = stopForReset { s with sourceAnswers := s.sourceAnswers.drop 1 }) := by
  unfold readByteThen
  split <;> rename_i h
  · exact .inr (.inl ⟨.inr (by simp [h]), by simp [h]⟩)
  · exact .inr (.inr ⟨by simp [h], by simp [h]⟩)
  · rename_i hfail
    have hr : s.sourceAnswers[0]? ≠ some .reset := by
      intro hx
      cases hs : s.sourceAnswers with
      | nil => simp [hs] at hx
      | cons x xs => simp [hs] at hx; exact h xs (by rw [hs, hx])
    split <;> rename_i hp
    · exact .inr (.inl ⟨.inl ⟨hp, hr⟩, by simp⟩)
    · refine .inl ⟨_, hp, fun a ha => ?_, by simp⟩
      cases hs : s.sourceAnswers with
      | nil => simp [hs] at ha
      | cons x xs =>
        cases x with
        | accepted => simpa [hs] using ha
        | failed => exact absurd hs (hfail xs)
        | reset => exact absurd hs (h xs)

end Sys2Proof.Machine
end

