-- ==== Sys2Proof/Laws/Keeps.lean ====
section
/-! SUPPORT. Preservation, packaged once: a property that the primitive updates keep is kept by every shared operation
built of them. An invariant of the machine is then a statement about the primitive updates only. -/

namespace Sys2Proof.Machine

open Sys2Proof Sys2Proof.Safety Sys2Proof.Reference

/-- `P` is kept by an `Emit`, whatever the sink answers. -/
abbrev KeptByEmit (P : State → Prop) : Prop :=
  ∀ (b : Byte) (s : State), P s → P (emit b s)

/-- `P` does not depend on the accumulator. -/
abbrev KeptByPacker (P : State → Prop) : Prop :=
  ∀ (bits bitCounter : Nat) (s : State), P s → P { s with bits := bits, bitCounter := bitCounter }

/-- `P` is kept by a payload read, whatever the source answers. -/
abbrev KeptByRead (P : State → Prop) : Prop :=
  (∀ (answers : List Answer) (s : State), P s → P { s with rdPtr := s.rdPtr + 1, sourceAnswers := answers }) ∧
  (∀ (answers : List Answer) (s : State), P s → P (raise .ioError { s with sourceAnswers := answers })) ∧
  ∀ (answers : List Answer) (s : State), P s → P (stopForReset { s with sourceAnswers := answers })

/-- `P` is kept by the splitter's working registers and by its ArgumentError. -/
abbrev KeptBySplitter (P : State → Prop) : Prop :=
  (∀ (a : Addr) (s : State), P s → P { s with curAddr := a }) ∧
  (∀ (n : Nat) (s : State), P s → P { s with blockSize := n }) ∧
  (∀ (i : Nat) (s : State), P s → P { s with blkIdx := i }) ∧
  (∀ s : State, P s → P { s with rdPtr := 0 }) ∧
  ∀ s : State, P s → P (raise .argumentError s)

variable {P : State → Prop}

theorem emitSeq_keeps (he : KeptByEmit P) (bs : List Byte) {s : State} (h : P s) : P (emitSeq bs s) := by
  induction bs generalizing s with
  | nil => exact h
  | cons b bs ih => exact andThen_keeps (he b s h) fun _ h => ih h

theorem extractOne_keeps (he : KeptByEmit P) (hp : KeptByPacker P) {s : State} (h : P s) : P (extractOne s) :=
  he _ _ (hp _ _ _ h)

theorem drain_keeps (he : KeptByEmit P) (hp : KeptByPacker P) {s : State} (h : P s) : P (drain s) := by
  have key : ∀ fuel s, P s → P (drainLoop fuel s) := by
    intro fuel
    induction fuel with
    | zero => exact fun _ h => h
    | succ n ih =>
      intro s h
      unfold drainLoop
      split
      · exact andThen_keeps (extractOne_keeps he hp h) fun _ h => ih _ h
      · exact h
  exact key _ _ h

theorem flush_keeps (he : KeptByEmit P) (hp : KeptByPacker P) {s : State} (h : P s) : P (flush s) := by
  have key : ∀ fuel s, P s → P (flushLoop fuel s) := by
    intro fuel
    induction fuel with
    | zero => exact fun _ h => h
    | succ n ih =>
      intro s h
      unfold flushLoop
      split
      · exact andThen_keeps (extractOne_keeps he hp h) fun _ h => ih _ h
      · exact h
  exact key _ _ h

theorem packByte_keeps (he : KeptByEmit P) (hp : KeptByPacker P) (hr : KeptByRead P) {s : State} (h : P s) :
    P (packByte s) := by
  unfold packByte
  rcases readByteThen_cases (fun byte s => drain (packerFeed byte s)) s with ⟨b, -, -, e⟩ | ⟨-, e⟩ | ⟨-, e⟩
  · rw [e]
    exact drain_keeps he hp (hp _ _ _ (hr.1 _ _ h))
  · rw [e]
    exact hr.2.1 _ _ h
  · rw [e]
    exact hr.2.2 _ _ h

theorem packPayload_keeps (he : KeptByEmit P) (hp : KeptByPacker P) (hr : KeptByRead P) (len : Nat) {s : State}
    (h : P s) : P (packPayload len s) := by
  induction len generalizing s with
  | zero => exact h
  | succ n ih => exact andThen_keeps (packByte_keeps he hp hr h) fun _ h => ih h

theorem writeBlock_keeps (he : KeptByEmit P) (hp : KeptByPacker P) (hr : KeptByRead P) (a : Addr) (bank : Bank)
    (len : Nat) (em : EndMarker) {s : State} (h : P s) : P (writeBlock a bank len em s) :=
  andThen_keeps (emitSeq_keeps he _ h) fun _ h =>
  andThen_keeps (emitSeq_keeps he _ h) fun _ h =>
  andThen_keeps (packPayload_keeps he hp hr len (hp 0 0 _ h)) fun _ h =>
  andThen_keeps (flush_keeps he hp h) fun _ h => he _ _ h

theorem startBlock_keeps (he : KeptByEmit P) (hx : ∀ s, P s → P (raise .argumentError s)) (row : BitVec 5)
    {s : State} (h : P s) : P (startBlock row s) := by
  unfold startBlock
  split
  · exact emitSeq_keeps he _ h
  · exact hx _ h

theorem stepBlock_keeps (he : KeptByEmit P) (hx : ∀ s, P s → P (raise .argumentError s)) (row : BitVec 5)
    (col : BitVec 6) {s : State} (h : P s) : P (stepBlock row col s) := by
  unfold stepBlock
  split
  · exact emitSeq_keeps he _ h
  · exact hx _ h

theorem dataBlock_keeps (he : KeptByEmit P) (hp : KeptByPacker P) (hr : KeptByRead P) (hs : KeptBySplitter P)
    (bank : Bank) (lastLen : Nat) (row : BitVec 5) (i : Nat) {s : State} (h : P s) :
    P (dataBlock bank lastLen row i s) := by
  unfold dataBlock
  dsimp only
  split
  · exact andThen_keeps (writeBlock_keeps he hp hr _ _ _ _ (hs.2.2.1 i s h))
      fun _ h => stepBlock_keeps he hs.2.2.2.2 _ _ h
  · exact andThen_keeps (writeBlock_keeps he hp hr _ _ _ _ (hs.2.2.1 i s h))
      fun _ h => stepBlock_keeps he hs.2.2.2.2 _ _ (hs.1 _ _ h)

theorem dataBlocks_keeps (he : KeptByEmit P) (hp : KeptByPacker P) (hr : KeptByRead P) (hs : KeptBySplitter P)
    (bank : Bank) (lastLen : Nat) (row : BitVec 5) (count i : Nat) {s : State} (h : P s) :
    P (dataBlocks bank lastLen row count i s) := by
  induction count generalizing i s with
  | zero => exact h
  | succ n ih => exact andThen_keeps (dataBlock_keeps he hp hr hs _ _ _ _ h) fun _ h => ih _ h

theorem splitBody_keeps (he : KeptByEmit P) (hp : KeptByPacker P) (hr : KeptByRead P) (hs : KeptBySplitter P)
    (a : Addr) (bank : Bank) (size : Nat) (row : BitVec 5) {s : State} (h : P s) :
    P (splitBody a bank size row s) :=
  andThen_keeps (startBlock_keeps he hs.2.2.2.2 row (hs.1 _ _ h)) fun _ h =>
  andThen_keeps (dataBlocks_keeps he hp hr hs _ _ _ _ _ h) fun _ h =>
    writeBlock_keeps he hp hr _ _ _ _ (hs.2.2.1 _ _ h)

theorem split_keeps (he : KeptByEmit P) (hp : KeptByPacker P) (hr : KeptByRead P) (hs : KeptBySplitter P)
    (standalone : Bool) {s : State} (h : P s) : P (split standalone s) := by
  unfold split
  dsimp only
  split
  · have h1 : P { s with blockSize := blockSizeOf s.size } := hs.2.1 _ _ h
    split
    · refine splitBody_keeps he hp hr hs _ _ _ _ ?_
      split
      · exact hs.2.2.2.1 _ h1
      · exact h1
    · exact hs.2.2.2.2 _ h1
  · exact hs.2.2.2.2 _ h

theorem convert_keeps (he : KeptByEmit P) (hp : KeptByPacker P) (hr : KeptByRead P) (hs : KeptBySplitter P)
    (preload : List Byte) {s : State} (h : P s) : P (convert preload s) := by
  unfold convert
  split
  · refine andThen_keeps (emitSeq_keeps he _ (hs.2.2.2.1 _ h)) fun _ h => ?_
    split
    · exact split_keeps he hp hr hs false h
    · exact writeBlock_keeps he hp hr _ _ _ _ h
  · exact hs.2.2.2.2 _ h

end Sys2Proof.Machine
end

