-- ==== Sys2Proof/Laws/Operands.lean ====
section
/-! SUPPORT. The operand checks as arithmetic (R56, R77, R78, R87). -/

namespace Sys2Proof.Machine

open Sys2Proof

theorem rowLegal_iff (row : BitVec 5) : rowLegal row = true ↔ 1 ≤ row.toNat ∧ row.toNat ≤ 24 := by
  simp [rowLegal]

theorem colLegal_iff (col : BitVec 6) : colLegal col = true ↔ 1 ≤ col.toNat ∧ col.toNat ≤ 40 := by
  simp [colLegal]

/-- The row check of the meanings is the row check of WellFormed. -/
theorem rowLegal_eq_rowInRange (row : BitVec 5) : rowLegal row = rowInRange row := rfl

/-- The column check of the meanings is the column check of WellFormed. -/
theorem colLegal_eq_colInRange (col : BitVec 6) : colLegal col = colInRange col := rfl

/-- An end marker byte is legal exactly when it names an end marker, and it is then that marker's byte. -/
theorem endMarkerOfByte_cases (b : Byte) :
    (endMarkerLegal b = true ∧ ∃ em, endMarkerOfByte b = some em ∧ endMarkerByte em = b) ∨
    (endMarkerLegal b = false ∧ endMarkerOfByte b = none) := by
  revert b
  decide +kernel

/-- The block size of a size and what is left of it. -/
theorem lastLenOf_nonneg_iff (size : Nat) : 0 ≤ lastLenOf size ↔ 39 * blockSizeOf size ≤ size := by
  unfold lastLenOf
  omega

/-- Admission of progress mode in natural-number arithmetic. -/
theorem splitAdmitted_iff (a : Addr) (size : Nat) :
    splitAdmitted a size = true ↔ 39 * blockSizeOf size ≤ size ∧ a.toNat + 39 * blockSizeOf size ≤ 0xFFFF := by
  simp only [splitAdmitted, Bool.and_eq_true, decide_eq_true_eq, lastLenOf_nonneg_iff]

/-- The last block's length as a natural number, when it is one. -/
theorem lastLenOf_toNat {size : Nat} (h : 39 * blockSizeOf size ≤ size) :
    (lastLenOf size).toNat + 39 * blockSizeOf size = size := by
  unfold lastLenOf
  omega

end Sys2Proof.Machine
end

