-- ==== Sys2Proof/Laws/PerInstr.lean ====
section
/-! SUPPORT. Statements about every instruction as syntax, proved constructor by constructor. TableBits: the selector an
instruction is encoded with has the fixed bits of its row of spec/opcode_table.json (R54, R56, R45 to R50). -/

namespace Sys2Proof.Laws

-- One thread is enough for these many small proofs.
set_option Elab.async false

/-- The bits of a record that the opcode table numbers: the 4-bit selector of a command, the byte of a wire class. -/
def tableBits : Record → Byte
  | .command op _ => op.setWidth 8
  | .wire _ byte => byte

/-- The mask and the match of a row of the opcode table, transcribed from the table. -/
def tableRow : Instr → Byte × Byte
  | .pkReset => (0x0F#8, 0x00#8)
  | .pkFeed _ => (0x0F#8, 0x01#8)
  | .pkExtract => (0x0F#8, 0x02#8)
  | .pkDrain => (0x0F#8, 0x03#8)
  | .pkFlush => (0x0F#8, 0x04#8)
  | .aeEncode _ _ => (0x0F#8, 0x05#8)
  | .bwWriteBlock _ _ _ _ => (0x0F#8, 0x06#8)
  | .psStartBlock _ => (0x0F#8, 0x07#8)
  | .psStepBlock _ _ => (0x0F#8, 0x08#8)
  | .psSplit _ _ _ _ => (0x0F#8, 0x09#8)
  | .cvConvert _ _ _ _ _ _ => (0x0F#8, 0x0A#8)
  | .reservedB => (0x0F#8, 0x0B#8)
  | .reservedC => (0x0F#8, 0x0C#8)
  | .reservedD => (0x0F#8, 0x0D#8)
  | .reservedE => (0x0F#8, 0x0E#8)
  | .reservedF => (0x0F#8, 0x0F#8)
  | .wireStartMarker0 => (0xFF#8, 0x1F#8)
  | .wireStartMarker1 => (0xFF#8, 0x3C#8)
  | .wireHeaderB1 _ _ => (0xE0#8, 0x40#8)
  | .wireHeaderB2 _ => (0xC0#8, 0x40#8)
  | .wireHeaderB3 _ => (0xC0#8, 0x40#8)
  | .wireSymbol _ => (0xC0#8, 0x40#8)
  | .wireEndProgramDefault => (0xFF#8, 0x21#8)
  | .wireEndDataBlock => (0xFF#8, 0x22#8)
  | .wireEndProgramWithStart => (0xFF#8, 0x28#8)
  | .wireEndProgram => (0xFF#8, 0x29#8)
  | .wireEndProgramThenBasic => (0xFF#8, 0x2A#8)
  | .wireStartSeq0 => (0xFF#8, 0x1F#8)
  | .wireStartSeq1 _ => (0xE0#8, 0x40#8)
  | .wireStartSeq2 => (0xFF#8, 0x41#8)
  | .wireStartSeq3 => (0xFF#8, 0x1D#8)
  | .wireStartSeq4 => (0xFF#8, 0x51#8)
  | .wireStartSeq5 => (0xFF#8, 0x12#8)
  | .wireStartSeq6 => (0xFF#8, 0x67#8)
  | .wireStartSeq7 => (0xFF#8, 0x1F#8)
  | .wireStartSeq8 _ => (0xE0#8, 0x40#8)
  | .wireStartSeq9 => (0xFF#8, 0x41#8)
  | .wireStepSeq0 => (0xFF#8, 0x1F#8)
  | .wireStepSeq1 _ => (0xE0#8, 0x40#8)
  | .wireStepSeq2 _ => (0xC0#8, 0x40#8)
  | .wireStepSeq3 => (0xFF#8, 0x1D#8)
  | .wireStepSeq4 => (0xFF#8, 0x82#8)
  | .wireStepSeq5 => (0xFF#8, 0x7F#8)

/-- The encoding of an instruction has the fixed bits of its row. -/
def TableBits.Statement (i : Instr) : Prop :=
  tableBits (encode i) &&& (tableRow i).1 = (tableRow i).2

theorem TableBits.pkReset : TableBits.Statement .pkReset := rfl

theorem TableBits.pkFeed (byte : Byte) : TableBits.Statement (.pkFeed byte) := by
  simp [TableBits.Statement, encode, tableBits, tableRow]

theorem TableBits.pkExtract : TableBits.Statement .pkExtract := rfl

theorem TableBits.pkDrain : TableBits.Statement .pkDrain := rfl

theorem TableBits.pkFlush : TableBits.Statement .pkFlush := rfl

theorem TableBits.aeEncode (address : Addr) (bank : Bank) : TableBits.Statement (.aeEncode address bank) := by
  simp [TableBits.Statement, encode, tableBits, tableRow]

theorem TableBits.bwWriteBlock (address : Addr) (bank : Bank) (len : Nat) (endMarker : Byte) : TableBits.Statement (.bwWriteBlock address bank len endMarker) := by
  simp [TableBits.Statement, encode, tableBits, tableRow]

theorem TableBits.psStartBlock (row : BitVec 5) : TableBits.Statement (.psStartBlock row) := by
  simp [TableBits.Statement, encode, tableBits, tableRow]

theorem TableBits.psStepBlock (row : BitVec 5) (col : BitVec 6) : TableBits.Statement (.psStepBlock row col) := by
  simp [TableBits.Statement, encode, tableBits, tableRow]

theorem TableBits.psSplit (startAddress : Addr) (bank : Bank) (size : Nat) (row : BitVec 5) : TableBits.Statement (.psSplit startAddress bank size row) := by
  simp [TableBits.Statement, encode, tableBits, tableRow]

theorem TableBits.cvConvert (startAddress : Addr) (bank : Bank) (size : Nat) (rowValid : Bool) (row : BitVec 5) (preload : List Byte) : TableBits.Statement (.cvConvert startAddress bank size rowValid row preload) := by
  simp [TableBits.Statement, encode, tableBits, tableRow]

theorem TableBits.reservedB : TableBits.Statement .reservedB := rfl

theorem TableBits.reservedC : TableBits.Statement .reservedC := rfl

theorem TableBits.reservedD : TableBits.Statement .reservedD := rfl

theorem TableBits.reservedE : TableBits.Statement .reservedE := rfl

theorem TableBits.reservedF : TableBits.Statement .reservedF := rfl

theorem TableBits.wireStartMarker0 : TableBits.Statement .wireStartMarker0 := rfl

theorem TableBits.wireStartMarker1 : TableBits.Statement .wireStartMarker1 := rfl

theorem TableBits.wireHeaderB1 (bank : Bank) (digit : BitVec 4) : TableBits.Statement (.wireHeaderB1 bank digit) := by
  cases bank <;> revert digit <;> unfold TableBits.Statement <;> decide

theorem TableBits.wireHeaderB2 (digit : BitVec 6) : TableBits.Statement (.wireHeaderB2 digit) := by
  revert digit; unfold TableBits.Statement; decide

theorem TableBits.wireHeaderB3 (digit : BitVec 6) : TableBits.Statement (.wireHeaderB3 digit) := by
  revert digit; unfold TableBits.Statement; decide

theorem TableBits.wireSymbol (symbol : BitVec 6) : TableBits.Statement (.wireSymbol symbol) := by
  revert symbol; unfold TableBits.Statement; decide

theorem TableBits.wireEndProgramDefault : TableBits.Statement .wireEndProgramDefault := rfl

theorem TableBits.wireEndDataBlock : TableBits.Statement .wireEndDataBlock := rfl

theorem TableBits.wireEndProgramWithStart : TableBits.Statement .wireEndProgramWithStart := rfl

theorem TableBits.wireEndProgram : TableBits.Statement .wireEndProgram := rfl

theorem TableBits.wireEndProgramThenBasic : TableBits.Statement .wireEndProgramThenBasic := rfl

theorem TableBits.wireStartSeq0 : TableBits.Statement .wireStartSeq0 := rfl

theorem TableBits.wireStartSeq1 (row : BitVec 5) : TableBits.Statement (.wireStartSeq1 row) := by
  revert row; unfold TableBits.Statement; decide

theorem TableBits.wireStartSeq2 : TableBits.Statement .wireStartSeq2 := rfl

theorem TableBits.wireStartSeq3 : TableBits.Statement .wireStartSeq3 := rfl

theorem TableBits.wireStartSeq4 : TableBits.Statement .wireStartSeq4 := rfl

theorem TableBits.wireStartSeq5 : TableBits.Statement .wireStartSeq5 := rfl

theorem TableBits.wireStartSeq6 : TableBits.Statement .wireStartSeq6 := rfl

theorem TableBits.wireStartSeq7 : TableBits.Statement .wireStartSeq7 := rfl

theorem TableBits.wireStartSeq8 (row : BitVec 5) : TableBits.Statement (.wireStartSeq8 row) := by
  revert row; unfold TableBits.Statement; decide

theorem TableBits.wireStartSeq9 : TableBits.Statement .wireStartSeq9 := rfl

theorem TableBits.wireStepSeq0 : TableBits.Statement .wireStepSeq0 := rfl

theorem TableBits.wireStepSeq1 (row : BitVec 5) : TableBits.Statement (.wireStepSeq1 row) := by
  revert row; unfold TableBits.Statement; decide

theorem TableBits.wireStepSeq2 (col : BitVec 6) : TableBits.Statement (.wireStepSeq2 col) := by
  revert col; unfold TableBits.Statement; decide

theorem TableBits.wireStepSeq3 : TableBits.Statement .wireStepSeq3 := rfl

theorem TableBits.wireStepSeq4 : TableBits.Statement .wireStepSeq4 := rfl

theorem TableBits.wireStepSeq5 : TableBits.Statement .wireStepSeq5 := rfl

end Sys2Proof.Laws
end

