-- ==== Sys2Proof/Laws/Realisation.lean ====
section
/-! SUPPORT. What an operation of a finite realisation can do: the operation of the reference machine, its own PK.FEED,
or a refusal of the payload size. -/

namespace Sys2Proof.Machine

open Sys2Proof

@[simp] theorem acceptsSize_unbounded (accWidth bcWidth size : Nat) :
    (Realisation.mk accWidth bcWidth none).acceptsSize size = true := rfl

theorem acceptsSize_bounded_iff (accWidth bcWidth largest size : Nat) :
    (Realisation.mk accWidth bcWidth (some largest)).acceptsSize size = true ↔ size ≤ largest :=
  decide_eq_true_iff

theorem finiteExec_of_not_ready (r : Realisation) (i : Instr) {s : State} (h : ¬ ready s) :
    finiteExec r i s = exec i s :=
  if_neg h

theorem finiteExec_of_oversize {r : Realisation} {i : Instr} {s : State} (h : ready s)
    (hr : r.acceptsSize (commandSize i) = false) :
    finiteExec r i s = .refused (.sizeAboveMaximum (commandSize i)) := by
  simp only [finiteExec, if_pos h, hr, Bool.false_eq_true, if_false]

/-- A feed that stays within the widths is the reference feed. -/
theorem finiteFeed_of_fits {r : Realisation} {byte : Byte} {bits bitCounter : Nat} (h : bitCounter ≤ 5)
    (ha : bits * 256 + byte.toNat < 2 ^ r.accWidth) (hb : bitCounter + 8 < 2 ^ r.bcWidth) :
    finiteFeed r byte (bits, bitCounter) = some (pureFeed byte (bits, bitCounter)) := by
  simp [finiteFeed, pureFeed, Nat.not_lt.mpr h, Nat.mod_eq_of_lt ha, Nat.mod_eq_of_lt hb]

/-- Of the operations whose payload is accepted, only PK.FEED is the realisation's own. -/
theorem finiteExec_of_accepts {r : Realisation} {i : Instr} {s : State} (hr : r.acceptsSize (commandSize i) = true)
    (hi : ∀ byte, i ≠ .pkFeed byte) : finiteExec r i s = exec i s := by
  unfold finiteExec
  rw [if_pos hr]
  split
  · split
    · exact absurd rfl (hi _)
    · rfl
  · rfl

end Sys2Proof.Machine
end

