-- ==== Sys2Proof/Tests/Slice0.lean ====
section
/-! SUPPORT. Tests: the well-formedness checks, one decoded word for every constructor, the spec's worked examples, and
for every statement with hypotheses a state and operands that meet them (`witness_…`, at the boundaries of its
clauses). -/

open Sys2Proof Sys2Proof.Machine Sys2Proof.Safety Sys2Proof.Reference

namespace Sys2Proof.Tests

-- One thread is enough for these many small proofs.
set_option Elab.async false

/-! ## Well-formedness: each check of R56 refuses an ill-formed term -/

theorem test_endMarker_refused :
    (Instr.bwWriteBlock 0x8100#16 .two 1 0x23#8).wellFormed = false ∧
    (Instr.bwWriteBlock 0x8100#16 .two 1 0x00#8).wellFormed = false ∧
    (Instr.bwWriteBlock 0x8100#16 .two 1 0x2A#8).wellFormed = true := by decide

theorem test_column_refused :
    (Instr.psStepBlock 1#5 0#6).wellFormed = false ∧ (Instr.psStepBlock 1#5 41#6).wellFormed = false ∧
    (Instr.psStepBlock 1#5 1#6).wellFormed = true ∧ (Instr.psStepBlock 1#5 40#6).wellFormed = true ∧
    (Instr.wireStepSeq2 0#6).wellFormed = false ∧ (Instr.wireStepSeq2 41#6).wellFormed = false := by decide

theorem test_wire_row_refused :
    (Instr.wireStartSeq1 0#5).wellFormed = false ∧ (Instr.wireStartSeq1 25#5).wellFormed = false ∧
    (Instr.wireStartSeq8 0#5).wellFormed = false ∧ (Instr.wireStepSeq1 25#5).wellFormed = false ∧
    (Instr.wireStepSeq1 1#5).wellFormed = true ∧ (Instr.wireStartSeq1 24#5).wellFormed = true := by decide

theorem test_reserved_refused :
    Instr.reservedB.wellFormed = false ∧ Instr.reservedC.wellFormed = false ∧ Instr.reservedD.wellFormed = false ∧
    Instr.reservedE.wellFormed = false ∧ Instr.reservedF.wellFormed = false := by decide

/-! ## Decoding: a record of every row, written out from R54 and R45 to R50 -/

theorem test_decode_pkReset : decode (.command 0b0000#4 {}) = .ok .pkReset := rfl
theorem test_decode_pkFeed : decode (.command 0b0001#4 { byte := 0xA5#8 }) = .ok (.pkFeed 0b10100101#8) := rfl
theorem test_decode_pkExtract : decode (.command 0b0010#4 {}) = .ok .pkExtract := rfl
theorem test_decode_pkDrain : decode (.command 0b0011#4 {}) = .ok .pkDrain := rfl
theorem test_decode_pkFlush : decode (.command 0b0100#4 {}) = .ok .pkFlush := rfl

theorem test_decode_aeEncode :
    decode (.command 0b0101#4 { address := 0x8100#16, bankSel := 1#1 }) = .ok (.aeEncode 0x8100#16 .three) ∧
    decode (.command 0b0101#4 { address := 0x8100#16, bankSel := 0#1 }) = .ok (.aeEncode 0x8100#16 .two) := ⟨rfl, rfl⟩

theorem test_decode_bwWriteBlock :
    decode (.command 0b0110#4 { address := 0x8100#16, bankSel := 0#1, len := 3, endMarker := 0x29#8 })
      = .ok (.bwWriteBlock 0x8100#16 .two 3 0x29#8) := rfl

theorem test_decode_psStartBlock : decode (.command 0b0111#4 { row := 12#5 }) = .ok (.psStartBlock 12#5) := rfl

theorem test_decode_psStepBlock :
    decode (.command 0b1000#4 { row := 24#5, col := 40#6 }) = .ok (.psStepBlock 24#5 40#6) := rfl

theorem test_decode_psSplit :
    decode (.command 0b1001#4 { startAddress := 0x8100#16, bankSel := 1#1, size := 39, row := 12#5 })
      = .ok (.psSplit 0x8100#16 .three 39 12#5) := rfl

theorem test_decode_cvConvert :
    decode (.command 0b1010#4 { startAddress := 0xC000#16, bankSel := 1#1, size := 1, rowValid := 1#1, row := 7#5,
                                preload := [0x0C#8] })
      = .ok (.cvConvert 0xC000#16 .three 1 true 7#5 [0x0C#8]) := rfl

theorem test_decode_reserved :
    decode (.command 0b1011#4 {}) = .ok .reservedB ∧ decode (.command 0b1100#4 {}) = .ok .reservedC ∧
    decode (.command 0b1101#4 {}) = .ok .reservedD ∧ decode (.command 0b1110#4 {}) = .ok .reservedE ∧
    decode (.command 0b1111#4 {}) = .ok .reservedF := ⟨rfl, rfl, rfl, rfl, rfl⟩

theorem test_decode_wireStartMarker :
    decode (.wire .startMarker0 0b00011111#8) = .ok .wireStartMarker0 ∧
    decode (.wire .startMarker1 0b00111100#8) = .ok .wireStartMarker1 := ⟨rfl, rfl⟩

/-- The header of 0x8100: 48 44 40 in bank 2, the first byte 58 in bank 3 (R69). -/
theorem test_decode_wireHeader :
    decode (.wire .headerB1 0b01001000#8) = .ok (.wireHeaderB1 .two 0b1000#4) ∧
    decode (.wire .headerB1 0b01011000#8) = .ok (.wireHeaderB1 .three 0b1000#4) ∧
    decode (.wire .headerB2 0b01000100#8) = .ok (.wireHeaderB2 0b000100#6) ∧
    decode (.wire .headerB3 0b01000000#8) = .ok (.wireHeaderB3 0b000000#6) := ⟨rfl, rfl, rfl, rfl⟩

theorem test_decode_wireSymbol : decode (.wire .symbol 0b01110000#8) = .ok (.wireSymbol 0b110000#6) := rfl

theorem test_decode_wireEndMarkers :
    decode (.wire .endMarker 0b00100001#8) = .ok .wireEndProgramDefault ∧
    decode (.wire .endMarker 0b00100010#8) = .ok .wireEndDataBlock ∧
    decode (.wire .endMarker 0b00101000#8) = .ok .wireEndProgramWithStart ∧
    decode (.wire .endMarker 0b00101001#8) = .ok .wireEndProgram ∧
    decode (.wire .endMarker 0b00101010#8) = .ok .wireEndProgramThenBasic := ⟨rfl, rfl, rfl, rfl, rfl⟩

/-- The ten bytes of R49 for row 12, at their positions. -/
theorem test_decode_wireStartSeq :
    decode (.wire (.startSeq 0) 0x1F#8) = .ok .wireStartSeq0 ∧
    decode (.wire (.startSeq 1) 0b01001100#8) = .ok (.wireStartSeq1 12#5) ∧
    decode (.wire (.startSeq 2) 0x41#8) = .ok .wireStartSeq2 ∧
    decode (.wire (.startSeq 3) 0x1D#8) = .ok .wireStartSeq3 ∧
    decode (.wire (.startSeq 4) 0x51#8) = .ok .wireStartSeq4 ∧
    decode (.wire (.startSeq 5) 0x12#8) = .ok .wireStartSeq5 ∧
    decode (.wire (.startSeq 6) 0x67#8) = .ok .wireStartSeq6 ∧
    decode (.wire (.startSeq 7) 0x1F#8) = .ok .wireStartSeq7 ∧
    decode (.wire (.startSeq 8) 0b01001100#8) = .ok (.wireStartSeq8 12#5) ∧
    decode (.wire (.startSeq 9) 0x41#8) = .ok .wireStartSeq9 := ⟨rfl, rfl, rfl, rfl, rfl, rfl, rfl, rfl, rfl, rfl⟩

/-- The six bytes of R50 for row 24, column 40, at their positions. -/
theorem test_decode_wireStepSeq :
    decode (.wire (.stepSeq 0) 0x1F#8) = .ok .wireStepSeq0 ∧
    decode (.wire (.stepSeq 1) 0b01011000#8) = .ok (.wireStepSeq1 24#5) ∧
    decode (.wire (.stepSeq 2) 0b01101000#8) = .ok (.wireStepSeq2 40#6) ∧
    decode (.wire (.stepSeq 3) 0x1D#8) = .ok .wireStepSeq3 ∧
    decode (.wire (.stepSeq 4) 0x82#8) = .ok .wireStepSeq4 ∧
    decode (.wire (.stepSeq 5) 0x7F#8) = .ok .wireStepSeq5 := ⟨rfl, rfl, rfl, rfl, rfl, rfl⟩

/-- Bytes that R56 says are never emitted, and bytes at a position that does not allow them, are rejected by name. -/
theorem test_decode_rejects :
    decode (.wire .symbol 0x80#8) = .error (.wireByteOutsideClass .symbol 0x80#8) ∧
    decode (.wire .headerB1 0x60#8) = .error (.wireByteOutsideClass .headerB1 0x60#8) ∧
    decode (.wire .endMarker 0x23#8) = .error (.wireByteOutsideClass .endMarker 0x23#8) ∧
    decode (.wire (.startSeq 1) 0x40#8) = .error (.wireByteOutsideClass (.startSeq 1) 0x40#8) ∧
    decode (.wire (.stepSeq 1) 0x59#8) = .error (.wireByteOutsideClass (.stepSeq 1) 0x59#8) ∧
    decode (.wire (.stepSeq 2) 0x69#8) = .error (.wireByteOutsideClass (.stepSeq 2) 0x69#8) :=
  ⟨rfl, rfl, rfl, rfl, rfl, rfl⟩

theorem test_table_words :
    decodeTableWord 8 0x01 = some (.pkFeed 0x00#8) ∧ decodeTableWord 8 0x0A = some (.cvConvert 0#16 .two 0 false 0#5 []) ∧
    decodeTableWord 8 0x0F = some .reservedF ∧ decodeTableWord 8 0x3C = some .wireStartMarker1 ∧
    decodeTableWord 8 0x2A = some .wireEndProgramThenBasic ∧ decodeTableWord 8 0x82 = some .wireStepSeq4 ∧
    decodeTableWord 8 0x10 = none := by decide +kernel

/-! ## The spec's worked examples -/

/-- A core with this accumulator and payload, everything else as after reset. -/
def packerAt (bits bitCounter : Nat) (pay : List Byte) : State :=
  { State.reset with bits := bits, bitCounter := bitCounter, pay := pay }

/-- The next state, if there is one. -/
def next? : Host.Outcome State Fault Refusal → Option State
  | .next s => some s
  | _ => none

/-- The accumulator, the counter and the output after an operation. -/
def packed (o : Host.Outcome State Fault Refusal) : Option (Nat × Nat × List Byte) :=
  (next? o).map fun s => (s.bits, s.bitCounter, s.out)

/-- The exception, the read pointer and the output after an operation. -/
def written (o : Host.Outcome State Fault Refusal) : Option (Option Exception × Nat × List Byte) :=
  (next? o).map fun s => (s.fault, s.rdPtr, s.out)

/-- R60, its example. -/
theorem test_pkReset : packed (exec .pkReset (packerAt 65 2 [])) = some (0, 0, []) := by decide +kernel

/-- R61, its example. -/
theorem test_pkFeed : packed (exec (.pkFeed 0x00#8) (packerAt 3 2 [])) = some (768, 10, []) := by decide +kernel

/-- R62, its example, and the all-ones corner case. -/
theorem test_pkExtract :
    packed (exec .pkExtract (packerAt 768 10 [])) = some (768, 4, [0x70#8]) ∧
    packed (exec .pkExtract (packerAt 255 8 [])) = some (3, 2, [0x7F#8]) := by decide +kernel

/-- R62: at `bit_counter = 6` the drain branch, at 1 the padded one. -/
theorem test_pkExtract_edges :
    packed (exec .pkExtract (packerAt 63 6 [])) = some (0, 0, [0x7F#8]) ∧
    packed (exec .pkExtract (packerAt 1 1 [])) = some (0, 0, [0x60#8]) := by decide +kernel

/-- R63, its example. -/
theorem test_pkDrain : packed (exec .pkDrain (packerAt 255 8 [])) = some (3, 2, [0x7F#8]) := by decide +kernel

/-- R64, its example. -/
theorem test_pkFlush : packed (exec .pkFlush (packerAt 3 2 [])) = some (0, 0, [0x70#8]) := by decide +kernel

/-- R69, its example in both banks. -/
theorem test_aeEncode :
    written (exec (.aeEncode 0x8100#16 .two) (packerAt 0 0 [])) = some (none, 0, [0x48#8, 0x44#8, 0x40#8]) ∧
    written (exec (.aeEncode 0x8100#16 .three) (packerAt 0 0 [])) = some (none, 0, [0x58#8, 0x44#8, 0x40#8]) := by
  decide +kernel

/-- R69, corner cases: the largest address and a digit boundary. -/
theorem test_aeEncode_edges :
    addrEnc 0xFFFF#16 .three = [0x5F#8, 0x7F#8, 0x7F#8] ∧ addrEnc 0x1000#16 .two = [0x41#8, 0x40#8, 0x40#8] := by
  decide +kernel

/-- R72, its example. -/
theorem test_bwWriteBlock :
    written (exec (.bwWriteBlock 0x8100#16 .two 3 0x29#8) (packerAt 65 2 [0xC3#8, 0x00#8, 0x81#8]))
      = some (none, 3, [0x1F#8, 0x3C#8, 0x48#8, 0x44#8, 0x40#8, 0x70#8, 0x70#8, 0x42#8, 0x41#8, 0x29#8]) := by
  decide +kernel

/-- R74, its example. -/
theorem test_bwWriteBlock_empty :
    written (exec (.bwWriteBlock 0x8100#16 .two 0 0x29#8) (packerAt 0 0 []))
      = some (none, 0, [0x1F#8, 0x3C#8, 0x48#8, 0x44#8, 0x40#8, 0x29#8]) := by decide +kernel

/-- R75, its example. -/
theorem test_psStartBlock :
    written (exec (.psStartBlock 12#5) (packerAt 0 0 []))
      = some (none, 0, [0x1F#8, 0x4C#8, 0x41#8, 0x1D#8, 0x51#8, 0x12#8, 0x67#8, 0x1F#8, 0x4C#8, 0x41#8]) := by
  decide +kernel

/-- R76, its two examples. -/
theorem test_psStepBlock :
    written (exec (.psStepBlock 12#5 7#6) (packerAt 0 0 []))
      = some (none, 0, [0x1F#8, 0x4C#8, 0x47#8, 0x1D#8, 0x82#8, 0x7F#8]) ∧
    written (exec (.psStepBlock 24#5 40#6) (packerAt 0 0 []))
      = some (none, 0, [0x1F#8, 0x58#8, 0x68#8, 0x1D#8, 0x82#8, 0x7F#8]) := by decide +kernel

/-- R77, five rows of its table. -/
theorem test_blockSize :
    (blockSizeOf 39, lastLenOf 39) = (1, 0) ∧ (blockSizeOf 40, lastLenOf 40) = (2, -38) ∧
    (blockSizeOf 1520, lastLenOf 1520) = (39, -1) ∧ (blockSizeOf 1521, lastLenOf 1521) = (39, 0) ∧
    (blockSizeOf 65535, lastLenOf 65535) = (1639, 1614) := by decide +kernel

/-- The payload 01 02 … of R79's example. -/
def counting (n : Nat) : List Byte :=
  (List.range n).map fun j => BitVec.ofNat 8 (j + 1)

/-- R79, its example: how the output begins, cut off by a sink that takes 32 bytes. -/
theorem test_psSplit :
    written (exec (.psSplit 0x8100#16 .two 39 12#5)
        { packerAt 0 0 (counting 39) with sinkAnswers := List.replicate 32 .accepted ++ [.failed] })
      = some (some .ioError, 2,
          [0x1F#8, 0x4C#8, 0x41#8, 0x1D#8, 0x51#8, 0x12#8, 0x67#8, 0x1F#8, 0x4C#8, 0x41#8,
           0x1F#8, 0x3C#8, 0x48#8, 0x44#8, 0x40#8, 0x40#8, 0x50#8, 0x22#8,
           0x1F#8, 0x4C#8, 0x41#8, 0x1D#8, 0x82#8, 0x7F#8,
           0x1F#8, 0x3C#8, 0x48#8, 0x44#8, 0x41#8, 0x40#8, 0x60#8, 0x22#8]) := by decide +kernel

/-- R79, its example: how the output ends, from data block 39 on. -/
theorem test_psSplit_end :
    (writeBlock 0x8100#16 .two 0 .endProgram (dataBlock .two 0 12#5 39 { packerAt 0 0 [] with curAddr := 0x8127#16 })).out
      = [0x1F#8, 0x3C#8, 0x48#8, 0x44#8, 0x67#8, 0x22#8, 0x1F#8, 0x4C#8, 0x68#8, 0x1D#8, 0x82#8, 0x7F#8,
         0x1F#8, 0x3C#8, 0x48#8, 0x44#8, 0x40#8, 0x29#8] := by decide +kernel

/-- R82: single-block mode with a preload; the row is not checked. -/
theorem test_cvConvert_single :
    written (exec (.cvConvert 0x8100#16 .two 0 false 31#5 [0x0C#8, 0x80#8]) (packerAt 0 0 []))
      = some (none, 0, [0x0C#8, 0x80#8, 0x1F#8, 0x3C#8, 0x48#8, 0x44#8, 0x40#8, 0x29#8]) := by decide +kernel

/-- R82, R91: progress mode with size 0 raises ArgumentError before the preload is emitted. -/
theorem test_cvConvert_rejected :
    written (exec (.cvConvert 0x8100#16 .two 0 true 12#5 [0x0C#8]) (packerAt 0 0 []))
      = some (some .argumentError, 0, []) := by decide +kernel

/-- R92: the third `Emit` fails, the first two bytes stay. -/
theorem test_ioError_keeps_output :
    written (exec (.aeEncode 0x8100#16 .two) { packerAt 0 0 [] with sinkAnswers := [.accepted, .accepted, .failed] })
      = some (some .ioError, 0, [0x48#8, 0x44#8]) := by decide +kernel

/-- R90: a hardware reset stops AE.ENCODE at its third `Emit`; the next step performs it (R98). -/
theorem test_reset_stops_operation :
    let s := { packerAt 65 2 [0xC3#8] with
      commands := [.command 0x5#4 { address := 0x8100#16 }, .command 0x0#4 {}],
      sinkAnswers := [.accepted, .accepted, .reset] }
    ((next? (step s)).map fun t => (t.out, t.fault, t.resetRequest)) = some ([0x48#8, 0x44#8], none, true) ∧
    (((next? (step s)).bind fun t => next? (step t)).map fun u => (u.out, u.bits, u.resetRequest, u.commands))
      = some ([], 0, false, [.command 0x0#4 {}]) := by decide +kernel

/-- R88 (b): the source is short by one byte. -/
theorem test_short_source :
    written (exec (.bwWriteBlock 0x8100#16 .two 2 0x29#8) (packerAt 0 0 [0xFF#8]))
      = some (some .ioError, 1, [0x1F#8, 0x3C#8, 0x48#8, 0x44#8, 0x40#8, 0x7F#8]) := by decide +kernel

/-- R46, R47, R50: wire bytes. -/
theorem test_wire_bytes :
    written (exec (.wireHeaderB1 .three 0b1000#4) (packerAt 0 0 [])) = some (none, 0, [0x58#8]) ∧
    written (exec (.wireSymbol 0b110000#6) (packerAt 0 0 [])) = some (none, 0, [0x70#8]) ∧
    written (exec (.wireStepSeq2 40#6) (packerAt 0 0 [])) = some (none, 0, [0x68#8]) := by decide +kernel

/-- The step runs the record of a table word. -/
theorem test_step_fetches :
    written (step (State.reset.withFetchWord 8 0x3C)) = some (none, 0, [0x3C#8]) ∧
    packed (step ((packerAt 65 2 []).withFetchWord 8 0x00)) = some (0, 0, []) := by decide +kernel

/-! ## Witnesses: what meets the hypotheses of the statements -/

/-- A stopped core. -/
def stopped : State := { State.reset with fault := some .ioError, out := [0x1F#8] }

/-- The core with a payload, a pending window, an output already begun, and answers that accept. -/
def busy : State :=
  { packerAt 65 2 [0xC3#8, 0x00#8, 0x81#8] with
    out := [0x0C#8], sinkAnswers := List.replicate 40 .accepted ++ [.failed], sourceAnswers := [.accepted, .accepted] }

/-- The same core whose sink takes `k` bytes and rejects the next. -/
def stoppedAt (k : Nat) : State := { busy with sinkAnswers := List.replicate k .accepted ++ [.failed] }

theorem witness_HardwareResetValues : { stopped with resetRequest := true }.resetRequest = true := by decide

theorem witness_FaultedCoreExecutesNothing :
    stopped.fault ≠ none ∧ stopped.resetRequest = false ∧ ¬ ready stopped ∧ ¬ ready (stopForReset busy) := by
  decide +kernel

theorem witness_IdleCoreWaits : busy.resetRequest = false ∧ busy.commands = [] := by decide +kernel

theorem witness_StepRunsDecodedInstruction :
    let s := { busy with commands := [.command 0x1#4 { byte := 0x41#8 }, .command 0x4#4 {}] }
    s.resetRequest = false ∧ s.fault = none ∧
    s.commands = .command 0x1#4 { byte := 0x41#8 } :: [.command 0x4#4 {}] ∧
    decode (.command 0x1#4 { byte := 0x41#8 }) = .ok (.pkFeed 0x41#8) := ⟨rfl, rfl, rfl, rfl⟩

theorem witness_DecodeOfEncode :
    (Instr.wireStepSeq2 40#6).wellFormed = true ∧
    ∃ op ports, encode (.bwWriteBlock 0xFFFF#16 .three 7 0x00#8) = .command op ports :=
  ⟨by decide, _, _, rfl⟩

theorem witness_EncodeOfDecode :
    decode (.wire (.stepSeq 1) 0x58#8) = .ok (.wireStepSeq1 24#5) ∧
    decode (.command 0xF#4 { byte := 1#8 }) = .ok .reservedF := ⟨rfl, rfl⟩

theorem witness_ReservedCodesRefused : 0xB ≤ (0xB#4).toNat ∧ 0xB ≤ (0xF#4).toNat := by decide

/-- Of PackerResetClears and FeedAppendsEightBits. -/
theorem witness_packer_not_faulted :
    ready (packerAt 65 2 []) ∧ ready busy := by decide +kernel

theorem witness_ExtractEmitsTopOfWindow :
    let s := { packerAt 63 6 [] with sinkAnswers := [.accepted, .failed] }
    ready s ∧ 6 ≤ s.bitCounter ∧ sinkAccepts s 1 := by decide

theorem witness_ExtractPadsLastSymbol :
    let s := { packerAt 63 1 [] with sinkAnswers := [.accepted, .failed] }
    let t := { packerAt 63 5 [] with sinkAnswers := [.accepted, .failed] }
    (ready s ∧ 1 ≤ s.bitCounter ∧ s.bitCounter ≤ 5 ∧ sinkAccepts s 1) ∧
    (ready t ∧ 1 ≤ t.bitCounter ∧ t.bitCounter ≤ 5 ∧ sinkAccepts t 1) := by decide

theorem witness_ExtractOfNothingRefused : ready (packerAt 62 0 []) ∧ (packerAt 62 0 []).bitCounter = 0 := by decide

theorem witness_ExtractSinkFailureLosesByte :
    let s := { packerAt 255 8 [] with sinkAnswers := [.failed] }
    let t := { packerAt 3 2 [] with sinkAnswers := [.failed] }
    (ready s ∧ 1 ≤ s.bitCounter ∧ sinkRejectsAfter s 0 ∧ 6 ≤ s.bitCounter) ∧
    (ready t ∧ 1 ≤ t.bitCounter ∧ sinkRejectsAfter t 0 ∧ t.bitCounter ≤ 5) := by decide

theorem witness_DrainLoopsExtract :
    ready (packerAt 31 5 []) ∧ (packerAt 31 5 []).bitCounter ≤ 5 ∧ sinkAccepts (packerAt 31 5 []) (5 / 6) ∧
    ready (packerAt 63 6 []) ∧ 5 < (packerAt 63 6 []).bitCounter ∧ sinkAccepts (packerAt 63 6 []) (6 / 6) := by decide

theorem witness_DrainEmitsCompleteSymbols :
    let s := { packerAt 4095 12 [] with sinkAnswers := [.accepted, .accepted, .failed] }
    ready s ∧ sinkAccepts s (s.bitCounter / 6) ∧ s.bitCounter / 6 = 2 := by decide

theorem witness_FlushLoopsExtract :
    ready (packerAt 62 0 []) ∧ (packerAt 62 0 []).bitCounter = 0 ∧ sinkAccepts (packerAt 62 0 []) ((0 + 5) / 6) ∧
    ready (packerAt 1 1 []) ∧ 0 < (packerAt 1 1 []).bitCounter ∧ sinkAccepts (packerAt 1 1 []) ((1 + 5) / 6) := by decide

theorem witness_FlushEmitsWholeWindow :
    let s := { packerAt 1023 10 [] with sinkAnswers := [.accepted, .accepted, .failed] }
    ready s ∧ sinkAccepts s ((s.bitCounter + 5) / 6) ∧ (s.bitCounter + 5) / 6 = 2 := by decide

theorem witness_SessionEmitsPayloadSymbols :
    let steps : List (Byte × Bool) := [(0xC3#8, true), (0x00#8, false), (0x81#8, true)]
    let s := { packerAt 62 0 [] with sinkAnswers := List.replicate 4 .accepted ++ [.failed] }
    ready s ∧ sinkAccepts s (symbolCount steps.length) ∧ s.bitCounter = 0 := by decide +kernel

theorem witness_SessionConservesBits :
    ready busy ∧ sinkAccepts busy (symbolCount [0xC3#8, 0x00#8, 0x81#8].length) ∧
    sinkAccepts busy (symbolCount [0xC3#8].length) ∧ sinkAccepts busy (symbolCount [0xC3#8, 0x00#8].length) ∧
    ([0xC3#8, 0x00#8, 0x81#8].length % 3 = 0 ∧ [0xC3#8].length % 3 = 1 ∧ [0xC3#8, 0x00#8].length % 3 = 2) := by
  decide +kernel

theorem witness_AdmittedOperationsKeepPackerBounded :
    packerBounded (packerAt 1007 4 []) ∧ admitted .opened (packerAt 1007 4 []) (.pkFeed 0xFF#8) = true ∧
    exec (.pkFeed 0xFF#8) (packerAt 1007 4 []) = .next (packerAt 258047 12 []) :=
  ⟨by decide, by decide, rfl⟩

theorem witness_AdmittedRunsFitEighteenBits :
    packerBounded (packerAt 62 0 []) ∧
    runAdmitted [.pkReset, .pkFeed 0xFF#8] .closed (packerAt 62 0 []) = some (.opened, packerAt 255 8 []) :=
  ⟨by decide, rfl⟩

theorem witness_FeedDrainIsReferenceRun :
    ready busy ∧
    sinkAccepts busy (referenceRun [0xC3#8, 0x00#8] (busy.bits, busy.bitCounter)).1.length := by decide +kernel

/-- The bound of SIZE_MAX from both sides. -/
theorem witness_FiniteRealisationExact :
    let r : Realisation := { accWidth := 18, bcWidth := 4, sizeMax := some 100 }
    let block := Instr.bwWriteBlock 0x8100#16 .two 100 0x29#8
    let large := Instr.bwWriteBlock 0x8100#16 .two 101 0x29#8
    r.exact = true ∧
    (packerBounded (packerAt 1007 4 []) ∧ admitted .opened (packerAt 1007 4 []) (.pkFeed 0xFF#8) = true ∧
      r.acceptsSize (commandSize (.pkFeed 0xFF#8)) = true) ∧
    (admitted .closed (packerAt 1007 4 []) block = true ∧ r.acceptsSize (commandSize block) = true) ∧
    (ready (packerAt 1007 4 []) ∧ r.acceptsSize (commandSize large) = false) := by decide +kernel

theorem witness_NarrowRealisationSameBytes :
    let r : Realisation := { accWidth := 12, bcWidth := 4 }
    12 ≤ r.accWidth ∧ 4 ≤ r.bcWidth := by decide

theorem witness_HeaderDeterminesAddressAndBank :
    addrEnc 0xFFFF#16 .three = [0x5F#8, 0x7F#8, 0x7F#8] ∧ addrEnc 0x0000#16 .two = [0x40#8, 0x40#8, 0x40#8] := by
  decide +kernel

theorem witness_AddressEncodeAppendsHeader :
    let s := { busy with sinkAnswers := [.accepted, .accepted, .accepted, .failed] }
    let t := { busy with sinkAnswers := [.accepted, .accepted, .failed] }
    (ready s ∧ sinkAccepts s 3) ∧ (ready t ∧ 2 < 3 ∧ sinkRejectsAfter t 2) ∧
    ready (stoppedAt 0) ∧ 0 < 3 ∧ sinkRejectsAfter (stoppedAt 0) 0 := by decide +kernel

/-- Also of WriteBlockShape; each of the five end markers. -/
theorem witness_WriteBlockAppendsFrame :
    ready busy ∧ (∀ em ∈ [0x21#8, 0x22#8, 0x28#8, 0x29#8, 0x2A#8],
      em ∈ [0x21#8, 0x22#8, 0x28#8, 0x29#8, 0x2A#8]) ∧ sinkAccepts busy (6 + symbolCount 3) ∧
    sourceDelivers busy 0 3 := by decide +kernel

theorem witness_WriteBlockReservedMarkerRefused :
    ready busy ∧ 0x20#8 ∉ [0x21#8, 0x22#8, 0x28#8, 0x29#8, 0x2A#8] ∧
    0x2B#8 ∉ [0x21#8, 0x22#8, 0x28#8, 0x29#8, 0x2A#8] := by decide +kernel

theorem witness_ZeroLengthBlock :
    let s := { packerAt 65 2 [] with sinkAnswers := List.replicate 6 .accepted ++ [.failed], sourceAnswers := [.failed] }
    ready s ∧ 0x22#8 ∈ [0x21#8, 0x22#8, 0x28#8, 0x29#8, 0x2A#8] ∧ sinkAccepts s 6 := by decide +kernel

/-- The first `Emit` and the last one, the end marker. -/
theorem witness_WriteBlockSinkFailureKeepsPrefix :
    let s := { busy with sinkAnswers := [.failed] }
    let t := { busy with sinkAnswers := List.replicate 9 .accepted ++ [.failed] }
    0x29#8 ∈ [0x21#8, 0x22#8, 0x28#8, 0x29#8, 0x2A#8] ∧
    (ready s ∧ 0 < 6 + symbolCount 3 ∧ sinkRejectsAfter s 0 ∧ sourceDelivers s 0 3) ∧
    (ready t ∧ 9 < 6 + symbolCount 3 ∧ sinkRejectsAfter t 9 ∧ sourceDelivers t 0 3) := by decide +kernel

/-- The source is exhausted, the source fails, a reset comes. -/
theorem witness_WriteBlockSourceFailureStops :
    let s := { busy with sourceAnswers := [.accepted, .failed] }
    let t := { busy with sourceAnswers := [.accepted, .reset] }
    0x29#8 ∈ [0x21#8, 0x22#8, 0x28#8, 0x29#8, 0x2A#8] ∧
    (ready busy ∧ 3 < 4 ∧ sourceStopsAfter busy 0 3 ∧ sinkAccepts busy (5 + 8 * 3 / 6)) ∧
    (ready s ∧ 1 < 3 ∧ sourceStopsAfter s 0 1 ∧ sinkAccepts s (5 + 8 * 1 / 6)) ∧
    (ready t ∧ 1 < 3 ∧ sourceResetAfter t 0 1 ∧ sinkAccepts t (5 + 8 * 1 / 6)) := by decide +kernel

/-- The same block on a core with another past. -/
theorem witness_BlockBytesDetermineBlock :
    let s := packerAt 65 2 [0xC3#8]
    let t := { packerAt 0 0 [0xC3#8, 0x00#8] with out := [0x0C#8] }
    let bytes := [0x1F#8, 0x3C#8, 0x48#8, 0x44#8, 0x40#8, 0x70#8, 0x70#8, 0x29#8]
    (ready s ∧ ready t ∧ 0x29#8 ∈ [0x21#8, 0x22#8, 0x28#8, 0x29#8, 0x2A#8] ∧
      sinkAccepts s (6 + symbolCount 1) ∧ sinkAccepts t (6 + symbolCount 1) ∧ sourceDelivers s 0 1 ∧
      sourceDelivers t 0 1) ∧
    ∃ s' t', exec (.bwWriteBlock 0x8100#16 .two 1 0x29#8) s = .next s' ∧
      exec (.bwWriteBlock 0x8100#16 .two 1 0x29#8) t = .next t' ∧ s'.out = s.out ++ bytes ∧ t'.out = t.out ++ bytes :=
  ⟨by decide +kernel, _, _, rfl, rfl, by decide +kernel, by decide +kernel⟩

theorem witness_StartBlockAppendsSequence :
    ready busy ∧ (1 ≤ (1#5).toNat ∧ (1#5).toNat ≤ 24) ∧ (1 ≤ (24#5).toNat ∧ (24#5).toNat ≤ 24) ∧
    sinkAccepts busy 10 ∧ ((0#5).toNat = 0 ∨ 25 ≤ (0#5).toNat) ∧ ((25#5).toNat = 0 ∨ 25 ≤ (25#5).toNat) ∧
    (0 < 10 ∧ ready (stoppedAt 0) ∧ sinkRejectsAfter (stoppedAt 0) 0) ∧
    (9 < 10 ∧ ready (stoppedAt 9) ∧ sinkRejectsAfter (stoppedAt 9) 9) := by decide +kernel

theorem witness_StepBlockAppendsSequence :
    ready busy ∧ (1 ≤ (24#5).toNat ∧ (24#5).toNat ≤ 24) ∧ (1 ≤ (1#6).toNat ∧ (1#6).toNat ≤ 40) ∧
    (1 ≤ (40#6).toNat ∧ (40#6).toNat ≤ 40) ∧ sinkAccepts busy 6 ∧ ((0#5).toNat = 0 ∨ 25 ≤ (0#5).toNat) ∧
    ((25#5).toNat = 0 ∨ 25 ≤ (25#5).toNat) ∧ ((0#6).toNat = 0 ∨ 41 ≤ (0#6).toNat) ∧
    ((41#6).toNat = 0 ∨ 41 ≤ (41#6).toNat) ∧
    (0 < 6 ∧ ready (stoppedAt 0) ∧ sinkRejectsAfter (stoppedAt 0) 0) ∧
    (5 < 6 ∧ ready (stoppedAt 5) ∧ sinkRejectsAfter (stoppedAt 5) 5) := by decide +kernel

theorem witness_BlockSizeArithmetic : 39 ≤ 39 ∧ 0 ≤ 39 ∧ 1521 ≤ 1521 := by decide

/-- The largest start address for 39 bytes; the first entry, the last data block and the terminator. -/
theorem witness_AdmittedSplitCoversPayload :
    splitAdmitted 0xFFD8#16 39 = true ∧ splitAdmitted 0x0000#16 1521 = true ∧
    (progressPlan 39 (0xFFD8#16).toNat)[0]? = some ⟨0xFFD8, 0, 1, 0x22#8⟩ ∧
    (progressPlan 39 (0xFFD8#16).toNat)[39]? = some ⟨0xFFFF, 39, 0, 0x22#8⟩ ∧
    (progressPlan 39 (0xFFD8#16).toNat)[40]? = some ⟨0xFFD8, 39, 0, 0x29#8⟩ := by decide +kernel

/-- A core ready for a split of 39 bytes: 574 accepting answers, then a failing one, and 39 payload bytes. -/
def splitReady : State :=
  { packerAt 65 2 (counting 39) with
    sinkAnswers := List.replicate 574 .accepted ++ [.failed], sourceAnswers := List.replicate 39 .accepted }

/-- Also of SplitOutputLength; rows 1 and 24, the largest start address. -/
theorem witness_SplitAppendsPlan :
    ready splitReady ∧ (1 ≤ (1#5).toNat ∧ (1#5).toNat ≤ 24) ∧ (1 ≤ (24#5).toNat ∧ (24#5).toNat ≤ 24) ∧
    39 * (39 / 40 + 1) ≤ 39 ∧ (0xFFD8#16).toNat + 39 * (39 / 40 + 1) ≤ 0xFFFF ∧
    sinkAccepts splitReady (progressBytes 0xFFD8#16 .three 39 24#5 splitReady.pay).length ∧
    574 = 10 + 39 * (6 + (8 * (39 / 40 + 1) + 5) / 6) + (6 + (8 * (39 - 39 * (39 / 40 + 1)) + 5) / 6) + 40 * 6 + 6 ∧
    sinkAccepts splitReady 574 ∧ sourceDelivers splitReady 0 39 := by decide +kernel

/-- Also of ConvertRejectionRaisesArgumentError: each cause alone. -/
theorem witness_SplitRejectionRaisesArgumentError :
    ready busy ∧ (0#5).toNat = 0 ∧ 25 ≤ (25#5).toNat ∧ 38 < 39 * (38 / 40 + 1) ∧ 40 < 39 * (40 / 40 + 1) ∧
    1520 < 39 * (1520 / 40 + 1) ∧ 0xFFFF < (0xFFD9#16).toNat + 39 * (39 / 40 + 1) := by decide +kernel

theorem witness_ConvertSingleBlock :
    ready busy ∧ sinkAccepts busy ([0x0C#8].length + (6 + symbolCount 3)) ∧ sourceDelivers busy 0 3 := by
  decide +kernel

theorem witness_ConvertProgressMode :
    let s := { splitReady with sinkAnswers := List.replicate 575 .accepted ++ [.failed] }
    ready s ∧ (1 ≤ (1#5).toNat ∧ (1#5).toNat ≤ 24) ∧ 39 * (39 / 40 + 1) ≤ 39 ∧
    (0xFFD8#16).toNat + 39 * (39 / 40 + 1) ≤ 0xFFFF ∧
    sinkAccepts s (convertBytes 0xFFD8#16 .two 39 true 1#5 [0x0C#8] s.pay).length ∧ sourceDelivers s 0 39 := by
  decide +kernel

/-- Single-block mode at the preload, progress mode at the last end marker; a rejection and a reset. -/
theorem witness_ConvertSinkFailureKeepsPrefix :
    let s := { busy with sinkAnswers := [.failed] }
    let s' := { busy with sinkAnswers := [.reset] }
    let t := { splitReady with sinkAnswers := List.replicate 573 .accepted ++ [.failed] }
    let t' := { splitReady with sinkAnswers := List.replicate 573 .accepted ++ [.reset] }
    (ready s ∧ ready s' ∧
      (false = true → 1 ≤ (0#5).toNat ∧ (0#5).toNat ≤ 24 ∧ 39 * (3 / 40 + 1) ≤ 3 ∧
        (0xC000#16).toNat + 39 * (3 / 40 + 1) ≤ 0xFFFF) ∧
      0 < (convertBytes 0xC000#16 .two 3 false 0#5 [0x0C#8] s.pay).length ∧ sinkRejectsAfter s 0 ∧
      sinkResetAfter s' 0 ∧ sourceDelivers s 0 3 ∧ sourceDelivers s' 0 3) ∧
    (ready t ∧ ready t' ∧
      (true = true → 1 ≤ (24#5).toNat ∧ (24#5).toNat ≤ 24 ∧ 39 * (39 / 40 + 1) ≤ 39 ∧
        (0xFFD8#16).toNat + 39 * (39 / 40 + 1) ≤ 0xFFFF) ∧
      573 < (convertBytes 0xFFD8#16 .two 39 true 24#5 [] t.pay).length ∧ sinkRejectsAfter t 573 ∧
      sinkResetAfter t' 573 ∧ sourceDelivers t 0 39 ∧ sourceDelivers t' 0 39) := by decide +kernel

theorem witness_CompositesStartFresh :
    let t := { busy with bits := 0, bitCounter := 0, out := [], startAddr := 0xBEEF#16, row := 31#5, rdPtr := 2 }
    ready busy ∧ ready t ∧ busy.pay = t.pay ∧ busy.sinkAnswers = t.sinkAnswers ∧
    busy.sourceAnswers = t.sourceAnswers ∧ 0x2A#8 ∈ [0x21#8, 0x22#8, 0x28#8, 0x29#8, 0x2A#8] := by decide +kernel

theorem witness_ConvertIsItsExpansion :
    ready busy ∧ 1 ≤ (1#5).toNat ∧ (1#5).toNat ≤ 24 ∧ 39 * (1521 / 40 + 1) ≤ 1521 ∧
    (0xFA0E#16).toNat + 39 * (1521 / 40 + 1) ≤ 0xFFFF := by decide +kernel

/-- A core with a PK.FEED waiting on its channel. -/
def feedWaiting : State := { packerAt 3 2 [] with commands := [.command 0x1#4 { byte := 0x00#8 }] }

/-- Also of PayloadAndExceptionKept and StepsKeepRegistersInDomain. -/
theorem witness_OutputOnlyGrows :
    feedWaiting.resetRequest = false ∧ registersInDomain feedWaiting ∧ step feedWaiting = .next (packerAt 768 10 []) :=
  ⟨rfl, by decide, rfl⟩

theorem witness_PayloadAndExceptionKept :
    stopped.resetRequest = false ∧ stopped.fault ≠ none ∧ step stopped = .next stopped := ⟨rfl, by decide, rfl⟩

theorem witness_UnloadedRegistersNeverRead :
    agreeButUnloaded busy { busy with
      startAddr := 0xBEEF#16, bank := .three, size := 9, rowValid := true, row := 31#5, curAddr := 1#16, blockSize := 7,
      blkIdx := 40 } := by decide +kernel

theorem witness_PrimitivesKeepRegisters :
    (∀ a bank len em, Instr.pkFeed 0x00#8 ≠ .bwWriteBlock a bank len em) ∧
    (∀ a bank size row, Instr.pkFeed 0x00#8 ≠ .psSplit a bank size row) ∧
    (∀ a bank size rowValid row preload, Instr.pkFeed 0x00#8 ≠ .cvConvert a bank size rowValid row preload) ∧
    exec (.pkFeed 0x00#8) (packerAt 3 2 []) = .next (packerAt 768 10 []) := ⟨nofun, nofun, nofun, rfl⟩

/-- Of FixedWireBytesAppended and TaggedWireBytesAppended. -/
theorem witness_wire_bytes :
    let s := { busy with sinkAnswers := [.accepted, .failed] }
    ready s ∧ sinkAccepts s 1 := by decide +kernel

theorem witness_MarkupFieldBytesAppended :
    let s := { busy with sinkAnswers := [.accepted, .failed] }
    ready s ∧ sinkAccepts s 1 ∧ (1 ≤ (1#5).toNat ∧ (24#5).toNat ≤ 24) ∧ (1 ≤ (1#6).toNat ∧ (40#6).toNat ≤ 40) ∧
    ((0#5).toNat = 0 ∧ 25 ≤ (25#5).toNat) ∧ ((0#6).toNat = 0 ∧ 41 ≤ (41#6).toNat) := by decide +kernel

theorem witness_RejectedEmitRaisesIOError :
    let s := { busy with sinkAnswers := [.failed, .accepted] }
    ready s ∧ encode (.wireStepSeq2 40#6) = .wire (.stepSeq 2) 0x68#8 ∧
    (Instr.wireStepSeq2 40#6).wellFormed = true ∧ sinkRejectsAfter s 0 := by decide +kernel

end Sys2Proof.Tests
end

section
/-! The BitPacker operations (R60 to R66): the equations of PK.RESET, PK.FEED, PK.DRAIN and PK.FLUSH, the two loops
over PK.EXTRACT as one loop with a stopping condition, and what a run of accepted symbols does to the state. -/

namespace Sys2Proof.BitPacker

open Sys2Proof Sys2Proof.Machine Sys2Proof.Safety Sys2Proof.Reference

/-! ### The operations as state updates -/

/-- An operation that always answers a next state is its update, run if the core is ready. -/
theorem whenReady_next (s : State) (f : State → State) :
    whenReady s (fun s => .next (f s)) = .next (andThen s f) := by
  by_cases h : ready s
  · rw [whenReady_of_ready h, andThen_of_ready h]
  · rw [whenReady_of_not_ready h, andThen_of_not_ready h]

theorem exec_pkDrain (s : State) : exec .pkDrain s = .next (andThen s drain) := whenReady_next s _

theorem exec_pkFlush (s : State) : exec .pkFlush s = .next (andThen s flush) := whenReady_next s _

theorem exec_pkReset_of_ready {s : State} (h : ready s) : exec .pkReset s = .next (packerReset s) := by
  rw [exec, execPkReset, whenReady_of_ready h]

theorem exec_pkFeed_of_ready {s : State} (h : ready s) (b : Byte) : exec (.pkFeed b) s = .next (packerFeed b s) := by
  rw [exec, execPkFeed, whenReady_of_ready h]

theorem exec_pkDrain_of_ready {s : State} (h : ready s) : exec .pkDrain s = .next (drain s) := by
  rw [exec_pkDrain, andThen_of_ready h]

theorem exec_pkFlush_of_ready {s : State} (h : ready s) : exec .pkFlush s = .next (flush s) := by
  rw [exec_pkFlush, andThen_of_ready h]

theorem exec_pkExtract_of_pending {s : State} (h : ready s) (hp : 0 < s.bitCounter) :
    exec .pkExtract s = .next (extractOne s) := by
  have pending : bitsPending s.bitCounter = true := decide_eq_true hp
  rw [exec, execPkExtract, whenReady_of_ready h, if_pos pending]

/-! ### One PK.EXTRACT -/

theorem emit_bitCounter (b : Byte) (s : State) : (emit b s).bitCounter = s.bitCounter := by
  rcases emit_cases b s with ⟨-, e⟩ | ⟨rest, -, e⟩ | ⟨rest, -, e⟩ <;> rw [e] <;> rfl

/-- Both branches of `Extract` take six bits off the counter, down to zero (R62). -/
theorem extract_bitCounter (bits n : Nat) : (extract bits n).bitCounter = n - 6 := by
  unfold extract
  split
  · rfl
  · rename_i h
    have : ¬ 6 ≤ n := by simpa [drainBranch] using h
    exact (Nat.sub_eq_zero_of_le (by omega)).symm

/-- Whatever the sink answers: the accumulator is written before the `Emit` (R62). -/
theorem extractOne_bitCounter (s : State) : (extractOne s).bitCounter = s.bitCounter - 6 := by
  rw [extractOne, emit_bitCounter, extract_bitCounter]

theorem extractOne_of_accepts {s : State} (h : sinkAccepts s 1) :
    extractOne s = appended [(extract s.bits s.bitCounter).byte]
      { s with bits := (extract s.bits s.bitCounter).bits, bitCounter := (extract s.bits s.bitCounter).bitCounter } := by
  rw [extractOne, emit_of_accepts]
  exact h

/-- A byte carries the symbol tag: its two high bits are `01` (R66). -/
abbrev tagged (b : Byte) : Prop :=
  b &&& 0xC0#8 = 0x40#8

theorem tagged_ofNat_or {x : Nat} (h : x < 64) : tagged (BitVec.ofNat 8 (x ||| 0x40)) := by
  revert x
  decide

/-- The masked window fits the six symbol bits in both branches, so the tag stays what it is. -/
theorem extract_byte_tagged (bits n : Nat) : tagged (extract bits n).byte := by
  unfold extract
  split
  · refine tagged_ofNat_or ?_
    rw [Nat.shiftRight_and_distrib, Nat.shiftLeft_shiftRight]
    exact Nat.lt_succ_of_le Nat.and_le_right
  · refine tagged_ofNat_or (Nat.lt_succ_of_le ?_)
    generalize 6 - n = k
    rw [Nat.shiftLeft_eq]
    calc (bits &&& 0x3F >>> k) * 2 ^ k ≤ (0x3F >>> k) * 2 ^ k := Nat.mul_le_mul_right _ Nat.and_le_right
      _ = 0x3F / 2 ^ k * 2 ^ k := by rw [Nat.shiftRight_eq_div_pow]
      _ ≤ 0x3F := Nat.div_mul_le_self _ _

/-! ### Accepted symbols -/

/-- `t` is `s` after `n` accepted symbols: `n` tagged bytes appended, and nothing but the accumulator changed
besides. -/
def SymbolsAppended (n : Nat) (s t : State) : Prop :=
  ∃ symbols : List Byte, symbols.length = n ∧ (∀ b ∈ symbols, tagged b) ∧
    t = { appended symbols s with bits := t.bits, bitCounter := t.bitCounter }

namespace SymbolsAppended

variable {m n : Nat} {s t u : State}

/-- A change of the accumulator alone emits no symbol. -/
theorem of_accumulator (bits bitCounter : Nat) (s : State) :
    SymbolsAppended 0 s { s with bits := bits, bitCounter := bitCounter } :=
  ⟨[], rfl, by simp, by rw [appended_nil]⟩

theorem refl (s : State) : SymbolsAppended 0 s s := of_accumulator _ _ s

theorem trans (hst : SymbolsAppended m s t) (htu : SymbolsAppended n t u) : SymbolsAppended (m + n) s u := by
  obtain ⟨as, hm, has, et⟩ := hst
  obtain ⟨bs, hn, hbs, eu⟩ := htu
  refine ⟨as ++ bs, by rw [List.length_append, hm, hn], List.forall_mem_append.mpr ⟨has, hbs⟩, ?_⟩
  rw [eu, et, ← appended_appended]
  rfl

theorem keeps_ready (h : SymbolsAppended n s t) (hs : ready s) : ready t := by
  obtain ⟨symbols, -, -, e⟩ := h
  rw [e]
  exact hs

theorem out_length (h : SymbolsAppended n s t) : t.out.length = s.out.length + n := by
  obtain ⟨symbols, hn, -, e⟩ := h
  rw [e, ← hn]
  exact List.length_append

theorem sinkAccepts_rest (h : SymbolsAppended m s t) (hs : sinkAccepts s (m + n)) : sinkAccepts t n := by
  obtain ⟨symbols, hm, -, e⟩ := h
  subst hm
  rw [e]
  exact sinkAccepts_appended symbols hs

theorem of_extractOne (h : sinkAccepts s 1) : SymbolsAppended 1 s (extractOne s) := by
  refine ⟨[(extract s.bits s.bitCounter).byte], rfl, by simpa using extract_byte_tagged _ _, ?_⟩
  rw [extractOne_of_accepts h]
  rfl

end SymbolsAppended

/-! ### The loop over PK.EXTRACT -/

/-- At most `fuel` iterations of `while go bit_counter: PK.EXTRACT`; `drainLoop` and `flushLoop` are its two uses. -/
def extractWhile (go : Nat → Bool) : Nat → State → State
  | 0, s => s
  | fuel + 1, s => if go s.bitCounter then andThen (extractOne s) (extractWhile go fuel) else s

theorem drainLoop_eq_extractWhile : drainLoop = extractWhile symbolReady := by
  funext fuel
  induction fuel with
  | zero => rfl
  | succ fuel ih => funext s; rw [drainLoop, extractWhile, ih]

theorem flushLoop_eq_extractWhile : flushLoop = extractWhile bitsPending := by
  funext fuel
  induction fuel with
  | zero => rfl
  | succ fuel ih => funext s; rw [flushLoop, extractWhile, ih]

section Loop

variable {go : Nat → Bool}

theorem extractWhile_of_stop {fuel : Nat} {s : State} (h : go s.bitCounter = false) : extractWhile go fuel s = s := by
  cases fuel with
  | zero => rfl
  | succ fuel => rw [extractWhile, h, if_neg Bool.false_ne_true]

theorem extractWhile_of_go {fuel : Nat} {s : State} (h : go s.bitCounter = true) :
    extractWhile go (fuel + 1) s = andThen (extractOne s) (extractWhile go fuel) := by
  rw [extractWhile, if_pos h]

/-- The counter falls at every turn, so all fuel from the counter on gives the same run. -/
theorem extractWhile_fuel_eq (stop : go 0 = false) {f g : Nat} {s : State} (hf : s.bitCounter ≤ f)
    (hg : s.bitCounter ≤ g) : extractWhile go f s = extractWhile go g s := by
  induction f generalizing g s with
  | zero =>
    have done : go s.bitCounter = false := by rwa [Nat.le_zero.mp hf]
    rw [extractWhile_of_stop done, extractWhile_of_stop done]
  | succ f ih =>
    cases hgo : go s.bitCounter with
    | false => rw [extractWhile_of_stop hgo, extractWhile_of_stop hgo]
    | true =>
      have positive : s.bitCounter ≠ 0 := fun h => by rw [h, stop] at hgo; exact Bool.false_ne_true hgo
      obtain ⟨g, rfl⟩ : ∃ k, g = k + 1 := Nat.exists_eq_add_one.mpr (by omega)
      have rest : extractWhile go f (extractOne s) = extractWhile go g (extractOne s) :=
        ih (by rw [extractOne_bitCounter]; omega) (by rw [extractOne_bitCounter]; omega)
      rw [extractWhile_of_go hgo, extractWhile_of_go hgo, andThen, andThen, rest]

/-- The loop with its fuel taken away: one PK.EXTRACT, then the loop again with the counter that is left. -/
theorem extractWhile_turn (stop : go 0 = false) {s : State} (h : go s.bitCounter = true) :
    extractWhile go s.bitCounter s = andThen (extractOne s) fun t => extractWhile go t.bitCounter t := by
  have rest : extractWhile go s.bitCounter (extractOne s)
      = extractWhile go (extractOne s).bitCounter (extractOne s) :=
    extractWhile_fuel_eq stop (by rw [extractOne_bitCounter]; omega) le_rfl
  calc extractWhile go s.bitCounter s = extractWhile go (s.bitCounter + 1) s :=
        extractWhile_fuel_eq stop le_rfl (Nat.le_succ _)
    _ = andThen (extractOne s) (extractWhile go s.bitCounter) := extractWhile_of_go h
    _ = andThen (extractOne s) fun t => extractWhile go t.bitCounter t := by rw [andThen, andThen, rest]

/-- A loop whose every `Emit` is accepted appends one symbol a turn and takes six bits off the counter each time.
`turns` counts the turns from a counter on. -/
theorem extractWhile_of_accepts (stop : go 0 = false) {turns : Nat → Nat} (last : ∀ n, go n = false → turns n = 0)
    (next : ∀ n, go n = true → turns n = turns (n - 6) + 1) {fuel : Nat} {s : State} (hr : ready s)
    (ha : sinkAccepts s (turns s.bitCounter)) (hf : s.bitCounter ≤ fuel) :
    SymbolsAppended (turns s.bitCounter) s (extractWhile go fuel s) ∧
      (extractWhile go fuel s).bitCounter = s.bitCounter - 6 * turns s.bitCounter := by
  induction fuel generalizing s with
  | zero =>
    rw [extractWhile, last _ (by rwa [Nat.le_zero.mp hf])]
    exact ⟨.refl s, rfl⟩
  | succ fuel ih =>
    cases hgo : go s.bitCounter with
    | false =>
      rw [extractWhile_of_stop hgo, last _ hgo]
      exact ⟨.refl s, rfl⟩
    | true =>
      have hturns : turns s.bitCounter = 1 + turns (extractOne s).bitCounter := by
        rw [extractOne_bitCounter, next _ hgo, Nat.add_comm]
      rw [hturns] at ha ⊢
      have first : SymbolsAppended 1 s (extractOne s) := .of_extractOne (sinkAccepts_mono ha (Nat.le_add_right _ _))
      obtain ⟨appends, counter⟩ :=
        ih (first.keeps_ready hr) (first.sinkAccepts_rest ha) (by rw [extractOne_bitCounter]; omega)
      rw [extractWhile_of_go hgo, andThen_of_ready (first.keeps_ready hr)]
      refine ⟨first.trans appends, ?_⟩
      rw [counter, extractOne_bitCounter]
      omega

end Loop

/-! ### PK.DRAIN -/

theorem drain_of_le {s : State} (h : s.bitCounter ≤ 5) : drain s = s := by
  rw [drain, drainLoop_eq_extractWhile, extractWhile_of_stop (decide_eq_false (Nat.not_lt.mpr h))]

theorem drain_turn {s : State} (h : 5 < s.bitCounter) : drain s = andThen (extractOne s) drain := by
  have turn := extractWhile_turn (go := symbolReady) rfl (decide_eq_true h)
  rwa [← drainLoop_eq_extractWhile] at turn

/-- R63: `bit_counter div 6` turns, `bit_counter mod 6` left. -/
theorem drain_of_accepts {s : State} (hr : ready s) (ha : sinkAccepts s (s.bitCounter / 6)) :
    SymbolsAppended (s.bitCounter / 6) s (drain s) ∧ (drain s).bitCounter = s.bitCounter % 6 := by
  have loop := extractWhile_of_accepts (go := symbolReady) rfl (turns := (· / 6))
    (fun n hn => by have := of_decide_eq_false hn; omega) (fun n hn => by have := of_decide_eq_true hn; omega)
    hr ha le_rfl
  rw [← drainLoop_eq_extractWhile] at loop
  obtain ⟨appends, counter⟩ := loop
  exact ⟨appends, counter.trans (by omega)⟩

/-! ### PK.FLUSH -/

theorem flush_of_zero {s : State} (h : s.bitCounter = 0) : flush s = s := by
  rw [flush, flushLoop_eq_extractWhile, extractWhile_of_stop (decide_eq_false (by omega))]

theorem flush_turn {s : State} (h : 0 < s.bitCounter) : flush s = andThen (extractOne s) flush := by
  have turn := extractWhile_turn (go := bitsPending) rfl (decide_eq_true h)
  rwa [← flushLoop_eq_extractWhile] at turn

/-- R64: `ceil(bit_counter / 6)` turns, nothing left. -/
theorem flush_of_accepts {s : State} (hr : ready s) (ha : sinkAccepts s ((s.bitCounter + 5) / 6)) :
    SymbolsAppended ((s.bitCounter + 5) / 6) s (flush s) ∧ (flush s).bitCounter = 0 := by
  have loop := extractWhile_of_accepts (go := bitsPending) rfl (turns := fun n => (n + 5) / 6)
    (fun n hn => by have := of_decide_eq_false hn; omega) (fun n hn => by have := of_decide_eq_true hn; omega)
    hr ha le_rfl
  rw [← flushLoop_eq_extractWhile] at loop
  obtain ⟨appends, counter⟩ := loop
  exact ⟨appends, counter.trans (by omega)⟩

/-! ### Runs of operations -/

theorem runAll_cons {i : Instr} {is : List Instr} {s t : State} (h : exec i s = .next t) :
    runAll (i :: is) s = runAll is t := by
  rw [runAll, h]

theorem runAll_append {is js : List Instr} {s t : State} (h : runAll is s = .next t) :
    runAll (is ++ js) s = runAll js t := by
  induction is generalizing s with
  | nil => cases h; rfl
  | cons i is ih =>
    cases hi : exec i s with
    | next u =>
      rw [runAll_cons hi] at h
      rw [List.cons_append, runAll_cons hi, ih h]
    | fault f => cases f
    | refused r => simp [runAll, hi] at h

/-- Feeding and draining a payload emits every complete group of the bits pending before and the payload's own; fewer
than six are left over. -/
theorem runAll_feedDrain (payload : List Byte) {s : State} (hr : ready s) (hc : s.bitCounter ≤ 5)
    (ha : sinkAccepts s ((s.bitCounter + 8 * payload.length) / 6)) :
    ∃ t, runAll (payload.flatMap fun b => [Instr.pkFeed b, .pkDrain]) s = .next t ∧
      SymbolsAppended ((s.bitCounter + 8 * payload.length) / 6) s t ∧
      t.bitCounter = (s.bitCounter + 8 * payload.length) % 6 := by
  induction payload generalizing s with
  | nil =>
    rw [List.length_nil, Nat.mul_zero, Nat.add_zero, Nat.div_eq_of_lt (by omega), Nat.mod_eq_of_lt (by omega)]
    exact ⟨s, rfl, .refl s, rfl⟩
  | cons b payload ih =>
    have count : (s.bitCounter + 8 * (b :: payload).length) / 6
        = (s.bitCounter + 8) / 6 + ((s.bitCounter + 8) % 6 + 8 * payload.length) / 6 := by
      rw [List.length_cons]; omega
    have left : (s.bitCounter + 8 * (b :: payload).length) % 6
        = ((s.bitCounter + 8) % 6 + 8 * payload.length) % 6 := by
      rw [List.length_cons]; omega
    rw [count] at ha ⊢
    rw [left]
    have hfed : ready (packerFeed b s) := hr
    obtain ⟨drained, counter⟩ := drain_of_accepts hfed (sinkAccepts_mono ha (Nat.le_add_right _ _))
    have turn : SymbolsAppended ((s.bitCounter + 8) / 6) s (drain (packerFeed b s)) := by
      simpa using (SymbolsAppended.of_accumulator _ _ s).trans drained
    rw [packerFeed_bitCounter] at counter
    obtain ⟨t, run, appends, rest⟩ :=
      ih (turn.keeps_ready hr) (by omega) (by rw [counter]; exact turn.sinkAccepts_rest ha)
    rw [counter] at appends rest
    refine ⟨t, ?_, turn.trans appends, rest⟩
    rw [List.flatMap_cons, List.cons_append, runAll_cons (exec_pkFeed_of_ready hr b), List.cons_append,
      runAll_cons (exec_pkDrain_of_ready hfed)]
    exact run

/-- R66: a session of `n` bytes emits `ceil(8n/6)` symbols. -/
theorem runAll_session (payload : List Byte) {s : State} (hr : ready s)
    (ha : sinkAccepts s (symbolCount payload.length)) :
    ∃ t, runAll (.pkReset :: payload.flatMap (fun b => [Instr.pkFeed b, .pkDrain]) ++ [.pkFlush]) s = .next t ∧
      SymbolsAppended (symbolCount payload.length) s t := by
  have hreset : ready (packerReset s) := hr
  have count : symbolCount payload.length
      = (0 + 8 * payload.length) / 6 + ((0 + 8 * payload.length) % 6 + 5) / 6 := by
    rw [symbolCount]; omega
  rw [count] at ha ⊢
  obtain ⟨t, run, fed, counter⟩ :=
    runAll_feedDrain payload hreset (Nat.zero_le 5) (sinkAccepts_mono ha (Nat.le_add_right _ _))
  rw [packerReset_bitCounter] at fed counter
  have sofar : SymbolsAppended ((0 + 8 * payload.length) / 6) s t := by
    simpa using (SymbolsAppended.of_accumulator _ _ s).trans fed
  have ht := sofar.keeps_ready hr
  obtain ⟨flushed, -⟩ := flush_of_accepts ht (by rw [counter]; exact sofar.sinkAccepts_rest ha)
  rw [counter] at flushed
  refine ⟨flush t, ?_, sofar.trans flushed⟩
  rw [List.cons_append, runAll_cons (exec_pkReset_of_ready hr), runAll_append run,
    runAll_cons (exec_pkFlush_of_ready ht)]
  rfl

/-! ### The obligations -/

/-- Settles O10: PK.RESET is the update `packerReset`, whose result it meets again unchanged. -/
theorem packerResetClears : Obligations.PackerResetClears :=
  ⟨rfl, fun s hr => ⟨exec_pkReset_of_ready hr, exec_pkReset_of_ready (s := packerReset s) hr⟩⟩

/-- Settles O11: PK.FEED is the update `packerFeed`. -/
theorem feedAppendsEightBits : Obligations.FeedAppendsEightBits :=
  fun b _ => ⟨rfl, fun hr => exec_pkFeed_of_ready hr b⟩

/-- Settles O16: a turn of the loop is `drain_turn`, the count of turns `drain_of_accepts`. -/
theorem drainLoopsExtract : Obligations.DrainLoopsExtract := by
  refine ⟨rfl, fun s hr => ?_⟩
  rw [exec_pkDrain_of_ready hr]
  refine ⟨fun h => by rw [drain_of_le h], fun h => ?_, fun ha => ?_⟩
  · exact ⟨extractOne s, exec_pkExtract_of_pending hr (by omega), by rw [drain_turn h, exec_pkDrain]⟩
  · obtain ⟨appends, counter⟩ := drain_of_accepts hr ha
    exact ⟨drain s, rfl, appends.keeps_ready hr, appends.out_length, counter⟩

/-- Settles O18: a turn of the loop is `flush_turn`, the count of turns `flush_of_accepts`. -/
theorem flushLoopsExtract : Obligations.FlushLoopsExtract := by
  refine ⟨rfl, fun s hr => ?_⟩
  rw [exec_pkFlush_of_ready hr]
  refine ⟨fun h => by rw [flush_of_zero h], fun h => ?_, fun ha => ?_⟩
  · exact ⟨extractOne s, exec_pkExtract_of_pending hr h, by rw [flush_turn h, exec_pkFlush]⟩
  · obtain ⟨appends, counter⟩ := flush_of_accepts hr ha
    exact ⟨flush s, rfl, appends.keeps_ready hr, appends.out_length, counter⟩

/-- Settles O21: the session appends `symbolCount` tagged bytes; the three closed forms are its arithmetic. -/
theorem sessionConservesBits : Obligations.SessionConservesBits := by
  intro payload s hr ha
  obtain ⟨t, run, symbols, count, tags, e⟩ := runAll_session payload hr ha
  have length : symbols.length = (8 * payload.length + 5) / 6 := count
  refine ⟨t, symbols, run, by rw [e]; rfl, length, ?_, ?_, ?_, tags⟩ <;> omega

end Sys2Proof.BitPacker
end

section
/-! The AddressEncoder operation (R69): its digits in closed form, and an `EmitSeq` that the sink cuts short. -/

namespace Sys2Proof.AddressEncoder

open Sys2Proof Sys2Proof.Machine Sys2Proof.Safety Sys2Proof.Reference

/-! ### A rejected sequence -/

/-- An answer other than acceptance lies behind every accepted `Emit`. -/
theorem le_of_sinkAccepts {s : State} {n m : Nat} {a : Answer} (h : sinkAccepts s n) (ha : s.sinkAnswers[m]? = some a)
    (hne : a ≠ .accepted) : n ≤ m := by
  by_contra hlt
  have inside : (s.sinkAnswers.take n)[m]? = some a := by rw [List.getElem?_take_of_lt (not_le.mp hlt), ha]
  exact hne (h a (List.mem_of_getElem? inside))

/-- R88, R92: the bytes before the rejected one stay, the later ones are not tried. -/
theorem emitSeq_of_rejects (bs : List Byte) {s : State} {k : Nat} (hr : ready s) (hk : k < bs.length)
    (h : sinkRejectsAfter s k) :
    emitSeq bs s = raise .ioError { appended (bs.take k) s with sinkAnswers := s.sinkAnswers.drop (k + 1) } := by
  obtain ⟨before, rejected⟩ := h
  rcases emitSeq_cases bs hr with ⟨whole, -⟩ | ⟨j, -, ⟨upTo, failed⟩, e⟩ | ⟨j, -, ⟨upTo, reset⟩, -⟩
  · have := le_of_sinkAccepts whole rejected nofun
    omega
  · have same : j = k :=
      le_antisymm (le_of_sinkAccepts upTo rejected nofun) (le_of_sinkAccepts before failed nofun)
    rw [e, same]
  · have same : j = k :=
      le_antisymm (le_of_sinkAccepts upTo rejected nofun) (le_of_sinkAccepts before reset nofun)
    rw [same, rejected] at reset
    cases reset

/-! ### The digits -/

/-- The tag is above a 6-bit digit, so its OR is an addition (R70). -/
theorem digit_or_tag {d : Nat} (h : d < 64) : d ||| 0x40 = 0x40 + d := by
  rw [Nat.or_comm]
  exact (Nat.two_pow_add_eq_or_of_lt (i := 6) h 1).symm

/-- The bank bit is above a 4-bit digit and the tag above both, so its OR is an addition too (R70). -/
theorem taggedDigit_or_bank {d : Nat} (h : d < 16) : (0x40 + d) ||| 0x10 = 0x50 + d := by
  rw [← digit_or_tag (by omega), Nat.or_assoc, Nat.or_comm]
  exact (Nat.two_pow_add_eq_or_of_lt (i := 4) h 5).symm

/-- A 16-bit address leaves four bits to the top digit (R69, corner case 0xFFFF). -/
theorem topDigit_lt (a : Addr) : a.toNat / 64 / 64 % 64 < 16 := by
  have := a.isLt
  omega

theorem addrEnc_eq_digits (a : Addr) (bank : Bank) :
    addrEnc a bank =
      [BitVec.ofNat 8 (0x40 + (if bank = .three then 0x10 else 0) + a.toNat / 64 / 64 % 64),
       BitVec.ofNat 8 (0x40 + a.toNat / 64 % 64), BitVec.ofNat 8 (0x40 + a.toNat % 64)] := by
  have tag : ∀ n, n % 64 ||| 0x40 = 0x40 + n % 64 := fun n => digit_or_tag (Nat.mod_lt n (by decide))
  cases bank with
  | two => simp only [addrEnc, bankIsThree, tag]; rfl
  | three => simp only [addrEnc, bankIsThree, tag, taggedDigit_or_bank (topDigit_lt a)]; rfl

/-! ### The operation -/

theorem exec_aeEncode_of_ready {s : State} (h : ready s) (a : Addr) (bank : Bank) :
    exec (.aeEncode a bank) s = .next (emitSeq (addrEnc a bank) s) := by
  rw [exec, execAeEncode, whenReady_of_ready h, emitHeader]

theorem encode_aeEncode (a : Addr) (bank : Bank) :
    encode (.aeEncode a bank)
      = .command 0x5#4 { address := a, bankSel := if bank = .three then 1#1 else 0#1 } := by
  cases bank <;> rfl

/-- Settles O30: the header is the digits, sent by one `EmitSeq` that is accepted whole or cut at the rejected byte. -/
theorem addressEncodeAppendsHeader : Obligations.AddressEncodeAppendsHeader := by
  intro a bank s hr header
  have digits : addrEnc a bank = header := addrEnc_eq_digits a bank
  rw [exec_aeEncode_of_ready hr, digits]
  refine ⟨encode_aeEncode a bank, fun accepts => ?_, fun k hk rejects => ?_⟩
  · rw [emitSeq_of_accepts header hr accepts]
  · rw [emitSeq_of_rejects header hr hk rejects]
    rfl

end Sys2Proof.AddressEncoder
end

section
/-! The symbols of a bit window (R28, R62 to R65) as arithmetic on its value, and the pure runs of the packer in terms
of them. A window of `c` bits is the number `v` modulo `2 ^ c`; nothing below looks at the machine's state. -/

namespace Sys2Proof.SymbolWindow

open Sys2Proof Sys2Proof.Machine Sys2Proof.Reference Sys2Proof.AddressEncoder

/-! ### The symbol at the top of a window -/

/-- The value of the top six bits of a window of `c` bits, zero bits taking the place of missing ones. -/
def topSymbol (v c : Nat) : Nat :=
  v % 2 ^ c * 64 / 2 ^ c

theorem topSymbol_lt (v c : Nat) : topSymbol v c < 64 :=
  Nat.div_lt_of_lt_mul (Nat.mul_lt_mul_of_pos_right (Nat.mod_lt v (Nat.two_pow_pos c)) (by decide))

theorem topSymbol_congr {v w c : Nat} (h : v % 2 ^ c = w % 2 ^ c) : topSymbol v c = topSymbol w c := by
  rw [topSymbol, topSymbol, h]

/-- With six bits or more there is nothing to pad. -/
theorem topSymbol_add_six (v d : Nat) : topSymbol v (d + 6) = v / 2 ^ d % 64 := by
  rw [topSymbol, Nat.pow_add, Nat.mul_div_mul_right _ _ (by decide), Nat.mod_mul_right_div_self]

/-- With at most six bits the window is shifted to the top of the symbol. -/
theorem topSymbol_of_le {c : Nat} (v : Nat) (h : c ≤ 6) : topSymbol v c = v % 2 ^ c * 2 ^ (6 - c) := by
  have split : (64 : Nat) = 2 ^ (6 - c) * 2 ^ c := by rw [← Nat.pow_add, Nat.sub_add_cancel h]
  rw [topSymbol, split, ← Nat.mul_assoc, Nat.mul_div_cancel _ (Nat.two_pow_pos c)]

/-- A fed byte stands below the complete symbols and leaves them alone. -/
theorem topSymbol_feed (v d : Nat) (b : Byte) : topSymbol (v * 256 + b.toNat) (d + 6 + 8) = topSymbol v (d + 6) := by
  have below : (v * 256 + b.toNat) / 256 = v := by
    have := b.isLt
    omega
  rw [Nat.add_right_comm, topSymbol_add_six, topSymbol_add_six, Nat.add_comm d 8, Nat.pow_add, ← Nat.div_div_eq_div_mul]
  exact congrArg (· / 2 ^ d % 64) below

/-! ### The symbols of a window -/

/-- The byte of a symbol (R47). -/
def symbolByte (x : Nat) : Byte :=
  BitVec.ofNat 8 (0x40 + x)

theorem symbolByte_toNat {x : Nat} (h : x < 64) : (symbolByte x).toNat = 0x40 + x := by
  rw [symbolByte, BitVec.toNat_ofNat, Nat.mod_eq_of_lt (by omega)]

/-- The first `n` symbols of a window of `c` bits. -/
def symbols (v c n : Nat) : List Byte :=
  (List.range n).map fun j => symbolByte (topSymbol v (c - 6 * j))

@[simp] theorem symbols_length (v c n : Nat) : (symbols v c n).length = n := by
  rw [symbols, List.length_map, List.length_range]

theorem symbols_zero (v c : Nat) : symbols v c 0 = [] := rfl

theorem symbols_one (v c : Nat) : symbols v c 1 = [symbolByte (topSymbol v c)] := rfl

theorem symbols_add (v c m n : Nat) : symbols v c (m + n) = symbols v c m ++ symbols v (c - 6 * m) n := by
  simp only [symbols, List.range_add, List.map_append, List.map_map]
  congr 2
  funext j
  simp only [Function.comp_apply, Nat.mul_add, Nat.sub_sub]

theorem take_symbols (v c : Nat) {m n : Nat} (h : m ≤ n) : (symbols v c n).take m = symbols v c m := by
  obtain ⟨k, rfl⟩ := Nat.exists_eq_add_of_le h
  rw [symbols_add, List.take_left' (symbols_length v c m)]

/-- The symbols depend on the bits of the window only, not on the stale bits above it. -/
theorem symbols_congr {v w c : Nat} (n : Nat) (h : v % 2 ^ c = w % 2 ^ c) : symbols v c n = symbols w c n := by
  have each (j : Nat) : topSymbol v (c - 6 * j) = topSymbol w (c - 6 * j) :=
    topSymbol_congr ((show v ≡ w [MOD 2 ^ c] from h).of_dvd (Nat.pow_dvd_pow 2 (Nat.sub_le c _)))
  simp only [symbols, each]

/-- A fed byte leaves the symbols that were complete before it. -/
theorem symbols_feed (v c : Nat) (b : Byte) {n : Nat} (h : 6 * n ≤ c) :
    symbols (v * 256 + b.toNat) (c + 8) n = symbols v c n := by
  refine List.map_congr_left fun j hj => ?_
  have inside := List.mem_range.mp hj
  obtain ⟨d, hd⟩ : ∃ d, c - 6 * j = d + 6 := ⟨c - 6 * j - 6, by omega⟩
  rw [show c + 8 - 6 * j = d + 6 + 8 by omega, hd, topSymbol_feed]

theorem mem_symbols_range {v c n : Nat} {b : Byte} (h : b ∈ symbols v c n) : 0x40 ≤ b.toNat ∧ b.toNat ≤ 0x7F := by
  obtain ⟨j, -, rfl⟩ := List.mem_map.mp h
  have := topSymbol_lt v (c - 6 * j)
  rw [symbolByte_toNat this]
  omega

/-! ### `Extract` -/

theorem and_mask (v k : Nat) : v &&& (2 ^ k - 1) = v % 2 ^ k := Nat.and_two_pow_sub_one_eq_mod v k

theorem extract_of_le {v c : Nat} (h : 6 ≤ c) :
    extract v c = ⟨symbolByte (topSymbol v c), v % (63 * 2 ^ (c - 6)), c - 6⟩ := by
  obtain ⟨d, rfl⟩ := Nat.exists_eq_add_of_le' h
  have digit : (v &&& 0x3F * 2 ^ d) >>> d = v / 2 ^ d % 64 := by
    rw [← Nat.shiftLeft_eq, Nat.shiftRight_and_distrib, Nat.shiftLeft_shiftRight, Nat.shiftRight_eq_div_pow]
    exact and_mask _ 6
  have drains : drainBranch (d + 6) = true := decide_eq_true h
  simp only [extract, drains, if_true, Nat.add_sub_cancel, digit, digit_or_tag (Nat.mod_lt _ (by decide : 0 < 64)),
    topSymbol_add_six, symbolByte, Nat.shiftLeft_eq]

theorem extract_of_lt {v c : Nat} (h : c < 6) : extract v c = ⟨symbolByte (topSymbol v c), v % (2 ^ c - 1), 0⟩ := by
  have mask : 0x3F >>> (6 - c) = 2 ^ c - 1 := by
    revert c
    decide
  have pads : drainBranch c = false := decide_eq_false (Nat.not_le.mpr h)
  have digit : (v &&& (2 ^ c - 1)) <<< (6 - c) = topSymbol v c := by
    rw [and_mask, Nat.shiftLeft_eq, topSymbol_of_le v (Nat.le_of_lt h)]
  simp only [extract, pads, Bool.false_eq_true, if_false, digit, digit_or_tag (topSymbol_lt v c), symbolByte, mask]

/-- Both branches of `Extract` emit the symbol at the top of the window. -/
theorem extract_byte (v c : Nat) : (extract v c).byte = symbolByte (topSymbol v c) := by
  rcases Nat.lt_or_ge c 6 with h | h
  · rw [extract_of_lt h]
  · rw [extract_of_le h]

/-- `Extract` keeps the bits below the symbol. -/
theorem extract_bits_mod (v c : Nat) : (extract v c).bits % 2 ^ (c - 6) = v % 2 ^ (c - 6) := by
  rcases Nat.lt_or_ge c 6 with h | h
  · rw [Nat.sub_eq_zero_of_le (Nat.le_of_lt h), pow_zero, Nat.mod_one, Nat.mod_one]
  · rw [extract_of_le h]
    exact Nat.mod_mod_of_dvd v (Nat.dvd_mul_left _ 63)

/-! ### The pure loop over `Extract` -/

/-- At most `fuel` iterations of `while go bit_counter: Extract` on `(bits, bit_counter)`, with the bytes emitted: the
pure counterpart of `BitPacker.extractWhile`. -/
def pureExtractWhile (go : Nat → Bool) : Nat → Nat × Nat → List Byte × (Nat × Nat)
  | 0, p => ([], p)
  | fuel + 1, p =>
    if go p.2 then
      let x := extract p.1 p.2
      let rest := pureExtractWhile go fuel (x.bits, x.bitCounter)
      (x.byte :: rest.1, rest.2)
    else ([], p)

theorem pureDrain_eq : pureDrain = pureExtractWhile symbolReady := by
  funext fuel
  induction fuel with
  | zero => rfl
  | succ fuel ih => funext p; rw [pureDrain, pureExtractWhile, ih]

/-- PK.FLUSH on `(bits, bit_counter)` with the bytes it emits (R64). -/
def pureFlush (p : Nat × Nat) : List Byte × (Nat × Nat) :=
  pureExtractWhile bitsPending p.2 p

/-- The loop emits the first `turns` symbols of the window and leaves its low bits. `turns` counts the turns from a
counter on. -/
theorem pureExtractWhile_eq {go : Nat → Bool} (stop : go 0 = false) {turns : Nat → Nat}
    (last : ∀ n, go n = false → turns n = 0) (next : ∀ n, go n = true → turns n = turns (n - 6) + 1) {fuel c : Nat}
    (v : Nat) (hf : c ≤ fuel) :
    ∃ b, pureExtractWhile go fuel (v, c) = (symbols v c (turns c), b, c - 6 * turns c) ∧
      b % 2 ^ (c - 6 * turns c) = v % 2 ^ (c - 6 * turns c) := by
  induction fuel generalizing v c with
  | zero =>
    rw [Nat.le_zero.mp hf, last 0 stop]
    exact ⟨v, rfl, rfl⟩
  | succ fuel ih =>
    cases hgo : go c with
    | false =>
      rw [last c hgo]
      exact ⟨v, by simp [pureExtractWhile, hgo, symbols_zero], rfl⟩
    | true =>
      have positive : c ≠ 0 := fun h => by rw [h, stop] at hgo; cases hgo
      obtain ⟨b, run, kept⟩ := ih (extract v c).bits (c := c - 6) (by omega)
      have left : c - 6 * turns c = c - 6 - 6 * turns (c - 6) := by rw [next c hgo]; omega
      have emitted : symbols v c (turns c)
          = (extract v c).byte :: symbols (extract v c).bits (c - 6) (turns (c - 6)) := by
        rw [next c hgo, Nat.add_comm, symbols_add, symbols_one, extract_byte, symbols_congr _ (extract_bits_mod v c)]
        rfl
      refine ⟨b, ?_, ?_⟩
      · rw [pureExtractWhile, if_pos hgo]
        simp only [BitPacker.extract_bitCounter, run, emitted, left]
      · rw [left, kept]
        exact ((show (extract v c).bits ≡ v [MOD 2 ^ (c - 6)] from extract_bits_mod v c).of_dvd
          (Nat.pow_dvd_pow 2 (Nat.sub_le _ _)))

/-- PK.DRAIN emits the complete symbols and keeps the rest of the window (R63). -/
theorem pureDrain_symbols {fuel c : Nat} (v : Nat) (hf : c ≤ fuel) :
    ∃ b, pureDrain fuel (v, c) = (symbols v c (c / 6), b, c % 6) ∧ b % 2 ^ (c % 6) = v % 2 ^ (c % 6) := by
  have loop := pureExtractWhile_eq (go := symbolReady) rfl (turns := (· / 6))
    (fun n hn => by have := of_decide_eq_false hn; omega) (fun n hn => by have := of_decide_eq_true hn; omega) v hf
  rwa [← pureDrain_eq, show c - 6 * (c / 6) = c % 6 by omega] at loop

/-- PK.FLUSH emits the whole window (R64). -/
theorem pureFlush_symbols (v c : Nat) : ∃ b, pureFlush (v, c) = (symbols v c ((c + 5) / 6), b, 0) := by
  have loop := pureExtractWhile_eq (go := bitsPending) rfl (turns := fun n => (n + 5) / 6)
    (fun n hn => by have := of_decide_eq_false hn; omega) (fun n hn => by have := of_decide_eq_true hn; omega) v
    (le_refl c)
  obtain ⟨b, run, -⟩ := loop
  exact ⟨b, by rw [pureFlush, run, show c - 6 * ((c + 5) / 6) = 0 by omega]⟩

/-! ### The runs over a payload -/

/-- The accumulator after feeding a payload and emitting nothing. -/
def feedAll (payload : List Byte) (v : Nat) : Nat :=
  payload.foldl (fun v b => v * 256 + b.toNat) v

theorem feedAll_cons (b : Byte) (payload : List Byte) (v : Nat) :
    feedAll (b :: payload) v = feedAll payload (v * 256 + b.toNat) := rfl

theorem feedAll_concat (payload : List Byte) (b : Byte) (v : Nat) :
    feedAll (payload ++ [b]) v = feedAll payload v * 256 + b.toNat := by
  rw [feedAll, List.foldl_append]
  rfl

/-- A feed keeps a congruence of windows. -/
theorem feed_mod_eq {v w c : Nat} (b : Byte) (h : v % 2 ^ c = w % 2 ^ c) :
    (v * 256 + b.toNat) % 2 ^ (c + 8) = (w * 256 + b.toNat) % 2 ^ (c + 8) := by
  have shifted : v * 2 ^ 8 ≡ w * 2 ^ 8 [MOD 2 ^ c * 2 ^ 8] := Nat.ModEq.mul_right' _ h
  rw [← Nat.pow_add] at shifted
  exact shifted.add_right _

theorem feedAll_mod_eq {v w c : Nat} (payload : List Byte) (h : v % 2 ^ c = w % 2 ^ c) :
    feedAll payload v % 2 ^ (c + 8 * payload.length) = feedAll payload w % 2 ^ (c + 8 * payload.length) := by
  induction payload generalizing v w c with
  | nil => exact h
  | cons b payload ih =>
    have rest := ih (feed_mod_eq b h)
    rwa [show c + 8 + 8 * payload.length = c + 8 * (b :: payload).length by rw [List.length_cons]; omega] at rest

/-- Feeding leaves the symbols that were complete before it. -/
theorem symbols_feedAll (payload : List Byte) (v c : Nat) {n : Nat} (h : 6 * n ≤ c) :
    symbols (feedAll payload v) (c + 8 * payload.length) n = symbols v c n := by
  induction payload generalizing v c with
  | nil => rfl
  | cons b payload ih =>
    rw [feedAll_cons, List.length_cons, show c + 8 * (payload.length + 1) = c + 8 + 8 * payload.length by omega,
      ih _ _ (by omega), symbols_feed v c b h]

/-- Symbols emitted from a window that a drain has cut down go on where the drain stopped. -/
theorem symbols_drained_append (payload : List Byte) {v b c : Nat} (m n : Nat) (hm : 6 * m ≤ c)
    (h : b % 2 ^ (c - 6 * m) = v % 2 ^ (c - 6 * m)) :
    symbols v c m ++ symbols (feedAll payload b) (c - 6 * m + 8 * payload.length) n
      = symbols (feedAll payload v) (c + 8 * payload.length) (m + n) := by
  rw [symbols_add, symbols_feedAll payload v c hm, symbols_congr n (feedAll_mod_eq payload h),
    show c + 8 * payload.length - 6 * m = c - 6 * m + 8 * payload.length by omega]

/-- Feeding and draining a payload emits the complete symbols of the pending bits and the payload's own. -/
theorem referenceRun_symbols (payload : List Byte) (v : Nat) {c : Nat} (hc : c ≤ 5) :
    ∃ b, referenceRun payload (v, c) =
        (symbols (feedAll payload v) (c + 8 * payload.length) ((c + 8 * payload.length) / 6),
          b, (c + 8 * payload.length) % 6) ∧
      b % 2 ^ ((c + 8 * payload.length) % 6) = feedAll payload v % 2 ^ ((c + 8 * payload.length) % 6) := by
  induction payload generalizing v c with
  | nil =>
    rw [List.length_nil, Nat.mul_zero, Nat.add_zero, Nat.div_eq_of_lt (by omega), Nat.mod_eq_of_lt (by omega)]
    exact ⟨v, rfl, rfl⟩
  | cons x payload ih =>
    obtain ⟨d, drained, kept⟩ := pureDrain_symbols (v * 256 + x.toNat) (le_refl (c + 8))
    obtain ⟨b, run, rest⟩ := ih d (c := (c + 8) % 6) (by omega)
    have cut : (c + 8) % 6 = c + 8 - 6 * ((c + 8) / 6) := by omega
    have emitted := symbols_drained_append payload ((c + 8) / 6) (((c + 8) % 6 + 8 * payload.length) / 6)
      (by omega) (cut ▸ kept)
    have total : c + 8 * (x :: payload).length = c + 8 + 8 * payload.length := by rw [List.length_cons]; omega
    have count : (c + 8) / 6 + ((c + 8) % 6 + 8 * payload.length) / 6 = (c + 8 + 8 * payload.length) / 6 := by omega
    have left : ((c + 8) % 6 + 8 * payload.length) % 6 = (c + 8 + 8 * payload.length) % 6 := by omega
    rw [← cut, count] at emitted
    refine ⟨b, ?_, ?_⟩
    · simp only [referenceRun, pureFeed, drained, run, emitted, feedAll_cons, total, left]
    · rw [total, ← left, rest, feedAll_cons]
      have deep : feedAll payload d ≡ feedAll payload (v * 256 + x.toNat)
          [MOD 2 ^ ((c + 8) % 6 + 8 * payload.length)] :=
        feedAll_mod_eq payload kept
      exact deep.of_dvd (Nat.pow_dvd_pow 2 (Nat.mod_le _ _))

/-! ### The reference's symbols -/

theorem drainedSymbols_eq (v c : Nat) : drainedSymbols v c = symbols v c (c / 6) := by
  refine List.map_congr_left fun j hj => ?_
  have inside := List.mem_range.mp hj
  obtain ⟨d, hd⟩ : ∃ d, c - 6 * j = d + 6 := ⟨c - 6 * j - 6, by omega⟩
  rw [hd, topSymbol_add_six, show c - 6 * (j + 1) = d by omega, symbolByte]

theorem flushedSymbols_eq (v c : Nat) : flushedSymbols v c = symbols v c ((c + 5) / 6) := by
  rw [flushedSymbols, drainedSymbols_eq]
  split
  · rename_i whole
    rw [List.append_nil, show (c + 5) / 6 = c / 6 by omega]
  · rename_i partly
    have last : c - 6 * (c / 6) = c % 6 := by omega
    rw [show (c + 5) / 6 = c / 6 + 1 by omega, symbols_add, symbols_one, last, topSymbol_of_le v (by omega), symbolByte]

theorem bitString_concat (payload : List Byte) (b : Byte) :
    bitString (payload ++ [b]) = bitString payload ++ byteBits b := by
  simp [bitString]

@[simp] theorem bitString_length (payload : List Byte) : (bitString payload).length = 8 * payload.length := by
  induction payload with
  | nil => rfl
  | cons b payload ih =>
    rw [bitString, List.flatMap_cons, List.length_append, ← bitString, ih, List.length_cons]
    simp only [byteBits, List.length_cons, List.length_nil]
    omega

theorem byteBits_getD (b : Byte) {i : Nat} (h : i < 8) : (byteBits b).getD i false = b.toNat.testBit (7 - i) := by
  interval_cases i <;> rfl

/-- R28: bit `i` of the bit string is bit `8n - 1 - i` of the payload read as one number. -/
theorem bitString_getD (payload : List Byte) {i : Nat} (h : i < 8 * payload.length) :
    (bitString payload).getD i false = (feedAll payload 0).testBit (8 * payload.length - 1 - i) := by
  induction payload using List.reverseRecOn with
  | nil => exact absurd h (Nat.not_lt_zero i)
  | append_singleton payload b ih =>
    rw [bitString_concat, feedAll_concat, List.length_append, List.length_singleton, Nat.mul_comm _ 256]
    rw [List.length_append, List.length_singleton] at h
    rcases Nat.lt_or_ge i (8 * payload.length) with early | late
    · rw [List.getD_append _ _ _ _ (by rwa [bitString_length]), ih early,
        Nat.testBit_two_pow_mul_add (i := 8) _ b.isLt, if_neg (by omega)]
      congr 1
      omega
    · rw [List.getD_append_right _ _ _ _ (by rwa [bitString_length]), bitString_length, byteBits_getD b (by omega),
        Nat.testBit_two_pow_mul_add (i := 8) _ b.isLt, if_pos (by omega)]
      congr 1
      omega

theorem topSymbol_testBit (v c : Nat) {i : Nat} (h : i < 6) :
    (topSymbol v c).testBit i = (decide (6 ≤ c + i) && v.testBit (c + i - 6)) := by
  rw [topSymbol, ← Nat.shiftRight_eq_div_pow, Nat.testBit_shiftRight, show (64 : Nat) = 2 ^ 6 from rfl,
    Nat.testBit_mul_two_pow, Nat.testBit_mod_two_pow]
  by_cases inside : 6 ≤ c + i
  · rw [decide_eq_true (show c + i - 6 < c by omega), Bool.true_and]
  · rw [decide_eq_false inside, Bool.false_and, Bool.false_and]

theorem bitString_getD_group (payload : List Byte) (t : Nat) {j : Nat} (h : j < 6) :
    (bitString payload).getD (6 * t + j) false
      = (topSymbol (feedAll payload 0) (8 * payload.length - 6 * t)).testBit (5 - j) := by
  rw [topSymbol_testBit _ _ (by omega)]
  rcases Nat.lt_or_ge (6 * t + j) (8 * payload.length) with inside | beyond
  · rw [bitString_getD payload inside, decide_eq_true (by omega), Bool.true_and]
    congr 1
    omega
  · rw [List.getD_eq_default _ _ (by rwa [bitString_length]), decide_eq_false (by omega), Bool.false_and]

theorem sum_testBits {x : Nat} (h : x < 64) :
    (x.testBit 5).toNat * 32 + (x.testBit 4).toNat * 16 + (x.testBit 3).toNat * 8 + (x.testBit 2).toNat * 4
      + (x.testBit 1).toNat * 2 + (x.testBit 0).toNat = x := by
  revert x
  decide

theorem symbolAt_bitString (payload : List Byte) (t : Nat) :
    symbolAt (bitString payload) t = topSymbol (feedAll payload 0) (8 * payload.length - 6 * t) := by
  have group {j : Nat} (h : j < 6) := bitString_getD_group payload t h
  have first : (bitString payload).getD (6 * t) false = _ := group (j := 0) (by decide)
  rw [symbolAt, first, group (by decide), group (by decide), group (by decide), group (by decide), group (by decide)]
  exact sum_testBits (topSymbol_lt _ _)

/-- R65: the symbol bytes of a payload are the symbols of the payload fed into an empty window. -/
theorem symbolBytes_eq (payload : List Byte) :
    symbolBytes payload = symbols (feedAll payload 0) (8 * payload.length) (symbolCount payload.length) := by
  simp only [symbolBytes, symbols, symbolAt_bitString, symbolByte]

@[simp] theorem symbolBytes_length (payload : List Byte) :
    (symbolBytes payload).length = symbolCount payload.length := by
  rw [symbolBytes_eq, symbols_length]

/-- Whatever stale bits the accumulator held before. -/
theorem symbols_feedAll_stale (payload : List Byte) (v n : Nat) :
    symbols (feedAll payload v) (8 * payload.length) n = symbols (feedAll payload 0) (8 * payload.length) n := by
  have same := feedAll_mod_eq (c := 0) payload ((Nat.mod_one v).trans (Nat.mod_one 0).symm)
  rw [Nat.zero_add] at same
  exact symbols_congr n same

end Sys2Proof.SymbolWindow
end

section
/-! Operations that write to the sink (R88, R90, R92). `Writes s bytes t r` says once what becomes of an operation that
sends `bytes`: it ends in `t` if the sink accepts them all, and stops at the first byte the sink does not take, with
exactly the bytes before it on the output. It composes along `andThen`, so the claims about accepted, rejected and
reset-stopped runs of a composite are read off one derivation. -/

namespace Sys2Proof.Streams

open Sys2Proof Sys2Proof.Machine Sys2Proof.Safety Sys2Proof.Reference

/-! ### Answers of the sink -/

theorem sinkAccepts_of_drop {s t : State} {m n : Nat} (ht : t.sinkAnswers = s.sinkAnswers.drop m)
    (h : sinkAccepts s (m + n)) : sinkAccepts t n := by
  intro a ha
  rw [ht, List.take_drop] at ha
  exact h a (List.mem_of_mem_drop ha)

/-! ### Stopped operations -/

/-- `r` is an operation begun in `s` and stopped at an `Emit` the sink answered with `a`, after the bytes `sofar`. -/
structure StoppedAt (s : State) (sofar : List Byte) (a : Answer) (r : State) : Prop where
  out : r.out = s.out ++ sofar
  pay : r.pay = s.pay
  commands : r.commands = s.commands
  fault : r.fault = if a = .failed then some .ioError else none
  resetRequest : r.resetRequest = decide (a = .reset)

theorem StoppedAt.not_ready {s r : State} {sofar : List Byte} {a : Answer} (h : StoppedAt s sofar a r)
    (ha : a ≠ .accepted) : ¬ ready r := by
  cases a with
  | accepted => exact absurd rfl ha
  | failed => exact not_ready_of_fault h.fault
  | reset => exact not_ready_of_reset h.resetRequest

/-! ### Writing operations -/

/-- `t` has the streams and the environment of `s`. -/
structure SameStreams (s t : State) : Prop where
  out : t.out = s.out
  sinkAnswers : t.sinkAnswers = s.sinkAnswers
  pay : t.pay = s.pay
  commands : t.commands = s.commands

/-- `r` is the result of an operation begun in `s` that sends `bytes` and ends in `t` if all of them are accepted. -/
structure Writes (s : State) (bytes : List Byte) (t r : State) : Prop where
  ready : ready t
  out : t.out = s.out ++ bytes
  sinkAnswers : t.sinkAnswers = s.sinkAnswers.drop bytes.length
  pay : t.pay = s.pay
  commands : t.commands = s.commands
  completes : sinkAccepts s bytes.length → r = t
  stops : ∀ k a, k < bytes.length → sinkAccepts s k → s.sinkAnswers[k]? = some a → a ≠ .accepted →
    StoppedAt s (bytes.take k) a r

namespace Writes

variable {s t u : State}

/-- An update that leaves the streams alone sends nothing. -/
theorem silent (hr : Machine.ready t) (same : SameStreams s t) : Writes s [] t t where
  ready := hr
  out := by rw [same.out, List.append_nil]
  sinkAnswers := same.sinkAnswers
  pay := same.pay
  commands := same.commands
  completes _ := rfl
  stops _ _ hk := absurd hk (Nat.not_lt_zero _)

/-- An operation may be taken as begun before an update that leaves the streams alone. -/
theorem begun_before {bytes : List Byte} {r : State} (h : Writes t bytes u r) (same : SameStreams s t) :
    Writes s bytes u r where
  ready := h.ready
  out := by rw [h.out, same.out]
  sinkAnswers := by rw [h.sinkAnswers, same.sinkAnswers]
  pay := by rw [h.pay, same.pay]
  commands := by rw [h.commands, same.commands]
  completes accepts := h.completes (by simpa [sinkAccepts, same.sinkAnswers] using accepts)
  stops k a hk accepts ha hne := by
    obtain ⟨out, pay, commands, fault, reset⟩ :=
      h.stops k a hk (by simpa [sinkAccepts, same.sinkAnswers] using accepts) (by rwa [same.sinkAnswers]) hne
    exact ⟨by rw [out, same.out], by rw [pay, same.pay], by rw [commands, same.commands], fault, reset⟩

/-- The same bytes and the same end, written differently. -/
theorem of_eq {r t' : State} {bytes bytes' : List Byte} (h : Writes s bytes t r) (hb : bytes = bytes') (ht : t = t') :
    Writes s bytes' t' r := by
  subst hb ht
  exact h

theorem emit (hs : Machine.ready s) (b : Byte) : Writes s [b] (appended [b] s) (emit b s) where
  ready := hs
  out := rfl
  sinkAnswers := rfl
  pay := rfl
  commands := rfl
  completes accepts := emit_of_accepts accepts b
  stops k a hk accepts ha hne := by
    have first : k = 0 := Nat.lt_one_iff.mp hk
    subst first
    obtain ⟨nofault, noreset⟩ := hs
    rcases emit_cases b s with ⟨whole, -⟩ | ⟨rest, hr, e⟩ | ⟨rest, hr, e⟩
    · have before := AddressEncoder.le_of_sinkAccepts whole ha hne
      omega
    · have failed : a = .failed := by simpa [hr] using ha.symm
      subst failed
      rw [e]
      exact ⟨by simp, rfl, rfl, rfl, noreset⟩
    · have reset : a = .reset := by simpa [hr] using ha.symm
      subst reset
      rw [e]
      exact ⟨by simp, rfl, rfl, nofault, rfl⟩

/-- Sequencing: the bytes of the second part follow those of the first. -/
theorem andThen {as bs : List Byte} {r : State} {g : State → State} (first : Writes s as t r)
    (second : Writes t bs u (g t)) : Writes s (as ++ bs) u (Machine.andThen r g) where
  ready := second.ready
  out := by rw [second.out, first.out, List.append_assoc]
  sinkAnswers := by rw [second.sinkAnswers, first.sinkAnswers, List.drop_drop, List.length_append]
  pay := by rw [second.pay, first.pay]
  commands := by rw [second.commands, first.commands]
  completes accepts := by
    rw [List.length_append] at accepts
    rw [first.completes (sinkAccepts_mono accepts (Nat.le_add_right _ _)), andThen_of_ready first.ready,
      second.completes (sinkAccepts_of_drop first.sinkAnswers accepts)]
  stops k a hk accepts ha hne := by
    rcases Nat.lt_or_ge k as.length with inFirst | later
    · have stopped := first.stops k a inFirst accepts ha hne
      rwa [andThen_of_not_ready (stopped.not_ready hne), List.take_append_of_le_length (Nat.le_of_lt inFirst)]
    · obtain ⟨j, rfl⟩ := Nat.exists_eq_add_of_le later
      rw [List.length_append] at hk
      rw [first.completes (sinkAccepts_mono accepts (Nat.le_add_right _ _)), andThen_of_ready first.ready]
      obtain ⟨out, pay, commands, fault, reset⟩ := second.stops j a (by omega)
        (sinkAccepts_of_drop first.sinkAnswers accepts) (by rw [first.sinkAnswers, List.getElem?_drop, ha]) hne
      refine ⟨?_, by rw [pay, first.pay], by rw [commands, first.commands], fault, reset⟩
      rw [out, first.out, List.append_assoc, List.take_length_add_append]

theorem emitSeq (bs : List Byte) (hs : Machine.ready s) : Writes s bs (appended bs s) (emitSeq bs s) := by
  induction bs generalizing s with
  | nil =>
    rw [appended_nil]
    exact silent hs ⟨rfl, rfl, rfl, rfl⟩
  | cons b bs ih =>
    have rest := ih (ready_appended [b] hs)
    rw [appended_appended] at rest
    exact (emit hs b).andThen rest

end Writes

/-! ### Progress of an operation on both streams -/

/-- `s` after sending `bytes` and reading `reads` payload bytes, with the accumulator left at `packer`. -/
def advanced (bytes : List Byte) (reads : Nat) (packer : Nat × Nat) (s : State) : State :=
  { appended bytes s with
    rdPtr := s.rdPtr + reads, sourceAnswers := s.sourceAnswers.drop reads, bits := packer.1, bitCounter := packer.2 }

theorem advanced_advanced (as bs : List Byte) (m n : Nat) (p q : Nat × Nat) (s : State) :
    advanced bs n q (advanced as m p s) = advanced (as ++ bs) (m + n) q s := by
  simp [advanced, appended, Nat.add_assoc, List.drop_drop]

theorem ready_advanced (bytes : List Byte) (reads : Nat) (packer : Nat × Nat) {s : State} (h : ready s) :
    ready (advanced bytes reads packer s) := h

theorem appended_eq_advanced (bytes : List Byte) (s : State) :
    appended bytes s = advanced bytes 0 (s.bits, s.bitCounter) s := rfl

/-- An operation that does nothing. -/
theorem nothing_writes {s : State} (hs : ready s) : Writes s [] (advanced [] 0 (s.bits, s.bitCounter) s) s := by
  rw [← appended_eq_advanced, appended_nil]
  exact .silent hs ⟨rfl, rfl, rfl, rfl⟩

/-! ### The packer on the output stream -/

open SymbolWindow

theorem extractOne_writes {s : State} (hs : ready s) :
    let x := extract s.bits s.bitCounter
    Writes s [x.byte] (advanced [x.byte] 0 (x.bits, x.bitCounter) s) (extractOne s) :=
  (Writes.emit (s := { s with
      bits := (extract s.bits s.bitCounter).bits
      bitCounter := (extract s.bits s.bitCounter).bitCounter }) hs _).begun_before ⟨rfl, rfl, rfl, rfl⟩

theorem extractWhile_writes {go : Nat → Bool} (fuel : Nat) {s : State} (hs : ready s) :
    let run := pureExtractWhile go fuel (s.bits, s.bitCounter)
    Writes s run.1 (advanced run.1 0 run.2 s) (BitPacker.extractWhile go fuel s) := by
  induction fuel generalizing s with
  | zero => exact nothing_writes hs
  | succ fuel ih =>
    rw [pureExtractWhile, BitPacker.extractWhile]
    cases hgo : go s.bitCounter with
    | false => simpa [hgo] using nothing_writes hs
    | true =>
      have rest := ih (ready_advanced [(extract s.bits s.bitCounter).byte] 0
        ((extract s.bits s.bitCounter).bits, (extract s.bits s.bitCounter).bitCounter) hs)
      dsimp only at rest
      rw [advanced_advanced] at rest
      exact (extractOne_writes hs).andThen rest

theorem drain_writes {s : State} (hs : ready s) :
    let run := pureDrain s.bitCounter (s.bits, s.bitCounter)
    Writes s run.1 (advanced run.1 0 run.2 s) (drain s) := by
  rw [pureDrain_eq, drain, BitPacker.drainLoop_eq_extractWhile]
  exact extractWhile_writes s.bitCounter hs

theorem flush_writes {s : State} (hs : ready s) :
    let run := pureFlush (s.bits, s.bitCounter)
    Writes s run.1 (advanced run.1 0 run.2 s) (flush s) := by
  rw [flush, BitPacker.flushLoop_eq_extractWhile]
  exact extractWhile_writes s.bitCounter hs

/-! ### The payload loop -/

/-- The bytes a source still holds from index `start` on, `n` of them. -/
abbrev payloadFrom (s : State) (start n : Nat) : List Byte :=
  (s.pay.drop start).take n

theorem payloadFrom_length {s : State} {start n : Nat} (h : start + n ≤ s.pay.length) :
    (payloadFrom s start n).length = n := by
  rw [List.length_take, List.length_drop]
  omega

/-- Of a source that delivers `m + n` bytes, the last `n` are delivered once `m` have been read. -/
theorem sourceDelivers_rest {s t : State} {start m n : Nat} (hpay : t.pay = s.pay)
    (hsrc : t.sourceAnswers = s.sourceAnswers.drop m) (h : sourceDelivers s start (m + n)) :
    sourceDelivers t (start + m) n := by
  obtain ⟨accepts, holds⟩ := h
  refine ⟨fun a ha => accepts a ?_, by rw [hpay]; omega⟩
  rw [hsrc, List.take_drop] at ha
  exact List.mem_of_mem_drop ha

theorem sourceDelivers_mono {s : State} {start m n : Nat} (h : sourceDelivers s start n) (hmn : m ≤ n) :
    sourceDelivers s start m :=
  ⟨fun a ha => h.1 a (List.take_subset_take_left _ hmn ha), by have := h.2; omega⟩

theorem readByteThen_of_delivers {s : State} {b : Byte} (use : Byte → State → State) (hb : s.pay[s.rdPtr]? = some b)
    (h : ∀ a ∈ s.sourceAnswers.take 1, a = .accepted) :
    readByteThen use s = use b { s with rdPtr := s.rdPtr + 1, sourceAnswers := s.sourceAnswers.drop 1 } := by
  have first {a : Answer} (ha : s.sourceAnswers[0]? = some a) : a = .accepted :=
    h a (List.mem_of_getElem? (i := 0) (by rwa [List.getElem?_take_of_lt Nat.one_pos]))
  rcases readByteThen_cases use s with ⟨c, hc, -, e⟩ | ⟨⟨hnone, -⟩ | hfail, -⟩ | ⟨hreset, -⟩
  · rw [e, Option.some.inj (hb.symm.trans hc)]
  · rw [hnone] at hb
    cases hb
  · cases first hfail
  · cases first hreset

theorem packByte_writes {s : State} {b : Byte} (hs : ready s) (hb : s.pay[s.rdPtr]? = some b)
    (h : ∀ a ∈ s.sourceAnswers.take 1, a = .accepted) :
    let fed := pureFeed b (s.bits, s.bitCounter)
    let run := pureDrain fed.2 fed
    Writes s run.1 (advanced run.1 1 run.2 s) (packByte s) := by
  rw [packByte, readByteThen_of_delivers _ hb h]
  exact (drain_writes (s := packerFeed b { s with
    rdPtr := s.rdPtr + 1, sourceAnswers := s.sourceAnswers.drop 1 }) hs).begun_before ⟨rfl, rfl, rfl, rfl⟩

/-- The payload loop of R72 is the reference run over the bytes it reads. -/
theorem packPayload_writes (n : Nat) {s : State} (hs : ready s) (h : sourceDelivers s s.rdPtr n) :
    let run := referenceRun (payloadFrom s s.rdPtr n) (s.bits, s.bitCounter)
    Writes s run.1 (advanced run.1 n run.2 s) (packPayload n s) := by
  induction n generalizing s with
  | zero => exact nothing_writes hs
  | succ n ih =>
    have inside : s.rdPtr < s.pay.length := by have := h.2; omega
    have here : payloadFrom s s.rdPtr (n + 1) = s.pay[s.rdPtr] :: payloadFrom s (s.rdPtr + 1) n := by
      rw [payloadFrom, List.drop_eq_getElem_cons inside, List.take_succ_cons]
    have first := packByte_writes hs (List.getElem?_eq_getElem inside)
      (fun a ha => h.1 a (List.take_subset_take_left _ (by omega) ha))
    let fed := pureFeed s.pay[s.rdPtr] (s.bits, s.bitCounter)
    let run := pureDrain fed.2 fed
    have rest := ih (s := advanced run.1 1 run.2 s) (ready_advanced _ _ _ hs)
      (sourceDelivers_rest (s := s) (m := 1) rfl rfl (by rwa [Nat.add_comm]))
    dsimp only at rest
    rw [advanced_advanced, Nat.add_comm 1 n] at rest
    dsimp only
    rw [here, referenceRun]
    exact first.andThen rest

end Sys2Proof.Streams
end

section
/-! The statements about PK.EXTRACT, PK.DRAIN, PK.FLUSH and whole sessions (R62 to R65), and a finite realisation of the
packer against the reference (R14, R102). -/

namespace Sys2Proof.PackerSession

open Sys2Proof Sys2Proof.Machine Sys2Proof.Safety Sys2Proof.Reference Sys2Proof.BitPacker Sys2Proof.SymbolWindow
open Sys2Proof.Streams

/-! ### PK.EXTRACT -/

/-- Settles O12. -/
theorem extractEmitsTopOfWindow : Obligations.ExtractEmitsTopOfWindow := by
  intro s hr h6 ha
  have kept := extract_bits_mod s.bits s.bitCounter
  have top : topSymbol s.bits s.bitCounter = s.bits % 2 ^ s.bitCounter / 2 ^ (s.bitCounter - 6) := by
    obtain ⟨d, hd⟩ := Nat.exists_eq_add_of_le' h6
    rw [hd, topSymbol, Nat.pow_add, Nat.mul_div_mul_right _ _ (by decide), Nat.add_sub_cancel]
  rw [extract_of_le h6] at kept
  refine ⟨?_, kept⟩
  rw [exec_pkExtract_of_pending hr (by omega), extractOne_of_accepts ha, extract_of_le h6, top]
  rfl

/-- Settles O13. -/
theorem extractPadsLastSymbol : Obligations.ExtractPadsLastSymbol := by
  intro s hr h1 h5 ha
  rw [exec_pkExtract_of_pending hr h1, extractOne_of_accepts ha, extract_of_lt (by omega),
    topSymbol_of_le _ (by omega)]
  rfl

/-- Settles O14. -/
theorem extractOfNothingRefused : Obligations.ExtractOfNothingRefused := by
  intro s hr h0
  have nothing : bitsPending s.bitCounter = false := decide_eq_false (by omega)
  rw [exec, execPkExtract, whenReady_of_ready hr, nothing, if_neg Bool.false_ne_true]

theorem emit_of_rejects {s : State} (h : sinkRejectsAfter s 0) (b : Byte) :
    emit b s = raise .ioError { s with sinkAnswers := s.sinkAnswers.drop 1 } := by
  obtain ⟨-, failed⟩ := h
  rcases emit_cases b s with ⟨accepts, -⟩ | ⟨rest, hs, e⟩ | ⟨rest, hs, -⟩
  · have := AddressEncoder.le_of_sinkAccepts accepts failed nofun
    omega
  · rw [e, hs, List.drop_one, List.tail_cons]
  · rw [hs] at failed
    cases failed

theorem extractOne_of_rejects {s : State} (h : sinkRejectsAfter s 0) :
    extractOne s = raise .ioError { s with
      bits := (extract s.bits s.bitCounter).bits, bitCounter := (extract s.bits s.bitCounter).bitCounter,
      sinkAnswers := s.sinkAnswers.drop 1 } :=
  emit_of_rejects (s := { s with
    bits := (extract s.bits s.bitCounter).bits, bitCounter := (extract s.bits s.bitCounter).bitCounter }) h _

/-- Settles O15: the accumulator is written before the `Emit`, in either branch of `Extract`. -/
theorem extractSinkFailureLosesByte : Obligations.ExtractSinkFailureLosesByte := by
  intro s hr h1 hrej
  refine ⟨extractOne s, exec_pkExtract_of_pending hr h1, ?_⟩
  rw [extractOne_of_rejects hrej]
  refine ⟨rfl, rfl, fun h6 => ?_, fun h5 => ?_⟩
  · rw [extract_of_le h6]
    exact ⟨rfl, rfl⟩
  · rw [extract_of_lt (by omega)]
    exact ⟨rfl, rfl⟩

/-! ### PK.DRAIN and PK.FLUSH -/

/-- An accepted PK.DRAIN. -/
theorem drain_eq_advanced {s : State} (hr : ready s) (ha : sinkAccepts s (s.bitCounter / 6)) :
    ∃ b, drain s = advanced (symbols s.bits s.bitCounter (s.bitCounter / 6)) 0 (b, s.bitCounter % 6) s ∧
      b % 2 ^ (s.bitCounter % 6) = s.bits % 2 ^ (s.bitCounter % 6) := by
  obtain ⟨b, run, kept⟩ := pureDrain_symbols s.bits (le_refl s.bitCounter)
  have writes := drain_writes hr
  simp only [run] at writes
  exact ⟨b, writes.completes (by rwa [symbols_length]), kept⟩

/-- An accepted PK.FLUSH. -/
theorem flush_eq_advanced {s : State} (hr : ready s) (ha : sinkAccepts s ((s.bitCounter + 5) / 6)) :
    ∃ b, flush s = advanced (symbols s.bits s.bitCounter ((s.bitCounter + 5) / 6)) 0 (b, 0) s := by
  obtain ⟨b, run⟩ := pureFlush_symbols s.bits s.bitCounter
  have writes := flush_writes hr
  simp only [run] at writes
  exact ⟨b, writes.completes (by rwa [symbols_length])⟩

/-- Settles O17. -/
theorem drainEmitsCompleteSymbols : Obligations.DrainEmitsCompleteSymbols := by
  intro s hr ha
  obtain ⟨b, e, kept⟩ := drain_eq_advanced hr ha
  exact ⟨b, by rw [exec_pkDrain_of_ready hr, e, drainedSymbols_eq]; rfl, kept⟩

/-- Settles O19. -/
theorem flushEmitsWholeWindow : Obligations.FlushEmitsWholeWindow := by
  intro s hr ha
  obtain ⟨b, e⟩ := flush_eq_advanced hr ha
  rw [flushedSymbols_eq]
  exact ⟨symbols_length _ _ _, b, by rw [exec_pkFlush_of_ready hr, e]; rfl⟩

/-! ### The session law -/

/-- The operations of a session after PK.RESET: each byte fed, with a PK.DRAIN after it where one is asked for, then
PK.FLUSH. -/
abbrev feedsThenFlush (steps : List (Byte × Bool)) : List Instr :=
  steps.flatMap (fun x => if x.2 then [Instr.pkFeed x.1, .pkDrain] else [.pkFeed x.1]) ++ [.pkFlush]

/-- Wherever it is drained, a session emits the symbols of the bits pending before it and the payload's own. -/
theorem runAll_feedsThenFlush (steps : List (Byte × Bool)) {s : State} (hr : ready s)
    (ha : sinkAccepts s ((s.bitCounter + 8 * steps.length + 5) / 6)) :
    ∃ b, runAll (feedsThenFlush steps) s = .next (advanced
      (symbols (feedAll (steps.map Prod.fst) s.bits) (s.bitCounter + 8 * steps.length)
        ((s.bitCounter + 8 * steps.length + 5) / 6)) 0 (b, 0) s) := by
  induction steps generalizing s with
  | nil =>
    obtain ⟨b, e⟩ := flush_eq_advanced hr ha
    refine ⟨b, ?_⟩
    rw [feedsThenFlush, List.flatMap_nil, List.nil_append, runAll_cons (exec_pkFlush_of_ready hr), e]
    rfl
  | cons x steps ih =>
    have total : s.bitCounter + 8 * (x :: steps).length = s.bitCounter + 8 + 8 * steps.length := by
      rw [List.length_cons]
      omega
    have hfed : ready (packerFeed x.1 s) := hr
    rw [total] at ha ⊢
    rw [feedsThenFlush, List.flatMap_cons, List.append_assoc]
    cases hx : x.2 with
    | false =>
      obtain ⟨b, e⟩ := ih hfed ha
      refine ⟨b, ?_⟩
      rw [if_neg Bool.false_ne_true, List.singleton_append, runAll_cons (exec_pkFeed_of_ready hr x.1), e]
      rfl
    | true =>
      obtain ⟨d, drained, kept⟩ := drain_eq_advanced hfed (sinkAccepts_mono ha (by rw [packerFeed_bitCounter]; omega))
      rw [packerFeed_bits, packerFeed_bitCounter] at drained kept
      have cut : (s.bitCounter + 8) % 6 = s.bitCounter + 8 - 6 * ((s.bitCounter + 8) / 6) := by omega
      have count : (s.bitCounter + 8 + 8 * steps.length + 5) / 6
          = (s.bitCounter + 8) / 6 + ((s.bitCounter + 8) % 6 + 8 * steps.length + 5) / 6 := by omega
      let t := advanced (symbols (s.bits * 256 + x.1.toNat) (s.bitCounter + 8) ((s.bitCounter + 8) / 6)) 0
        (d, (s.bitCounter + 8) % 6) s
      have ht : sinkAccepts t ((t.bitCounter + 8 * steps.length + 5) / 6) :=
        sinkAccepts_of_drop (s := s) (m := (s.bitCounter + 8) / 6)
          (congrArg (s.sinkAnswers.drop ·) (symbols_length _ _ _)) (count ▸ ha)
      obtain ⟨b, e⟩ := ih (s := t) hr ht
      have emitted := symbols_drained_append (steps.map Prod.fst) ((s.bitCounter + 8) / 6)
        (((s.bitCounter + 8) % 6 + 8 * steps.length + 5) / 6) (by omega) (cut ▸ kept)
      rw [List.length_map, ← cut, ← count] at emitted
      refine ⟨b, ?_⟩
      rw [if_pos rfl, List.cons_append, runAll_cons (exec_pkFeed_of_ready hr x.1), List.singleton_append,
        runAll_cons (exec_pkDrain_of_ready hfed), drained]
      refine e.trans ?_
      rw [advanced_advanced, List.map_cons, feedAll_cons, ← emitted]
      rfl

/-- Settles O20: with nothing pending the stale bits do not show, so both sessions emit the payload's own symbols. -/
theorem sessionEmitsPayloadSymbols : Obligations.SessionEmitsPayloadSymbols := by
  intro steps s hr ha
  have fromEmpty : ∀ t : State, ready t → t.bitCounter = 0 → t.sinkAnswers = s.sinkAnswers →
      ∃ b, runAll (feedsThenFlush steps) t
        = .next { appended (symbolBytes (steps.map Prod.fst)) t with bits := b, bitCounter := 0 } := by
    intro t ht h0 hsink
    have accepts : sinkAccepts t ((t.bitCounter + 8 * steps.length + 5) / 6) := by
      rw [h0, Nat.zero_add, sinkAccepts, hsink]
      exact ha
    obtain ⟨b, e⟩ := runAll_feedsThenFlush steps ht accepts
    have payload := symbols_feedAll_stale (steps.map Prod.fst) t.bits (symbolCount steps.length)
    rw [List.length_map] at payload
    refine ⟨b, ?_⟩
    rw [e, h0, Nat.zero_add, ← symbolCount, payload, symbolBytes_eq, List.length_map]
    rfl
  refine ⟨?_, fun h0 => fromEmpty s hr h0 rfl⟩
  obtain ⟨b, e⟩ := fromEmpty (packerReset s) hr rfl rfl
  exact ⟨b, by rw [runAll_cons (exec_pkReset_of_ready hr), e]; rfl⟩

/-! ### The pure run of the packer -/

theorem runAll_feedDrain_eq (payload : List Byte) {s : State} (hr : ready s)
    (ha : sinkAccepts s (referenceRun payload (s.bits, s.bitCounter)).1.length) :
    runAll (payload.flatMap fun b => [Instr.pkFeed b, .pkDrain]) s
      = .next (advanced (referenceRun payload (s.bits, s.bitCounter)).1 0
          (referenceRun payload (s.bits, s.bitCounter)).2 s) := by
  induction payload generalizing s with
  | nil =>
    rw [referenceRun, ← appended_eq_advanced, appended_nil]
    rfl
  | cons b payload ih =>
    let fed := pureFeed b (s.bits, s.bitCounter)
    let run := pureDrain fed.2 fed
    have hfed : ready (packerFeed b s) := hr
    have split : (referenceRun (b :: payload) (s.bits, s.bitCounter)).1 = run.1 ++ (referenceRun payload run.2).1 := rfl
    rw [split, List.length_append] at ha
    have drained : drain (packerFeed b s) = advanced run.1 0 run.2 s :=
      (drain_writes hfed).completes (sinkAccepts_mono ha (Nat.le_add_right _ _))
    have rest := ih (s := advanced run.1 0 run.2 s) hr (sinkAccepts_of_drop (s := s) rfl ha)
    rw [advanced_advanced] at rest
    rw [List.flatMap_cons, List.cons_append, runAll_cons (exec_pkFeed_of_ready hr b), List.singleton_append,
      runAll_cons (exec_pkDrain_of_ready hfed), drained]
    exact rest

/-- Settles O25. -/
theorem feedDrainIsReferenceRun : Obligations.FeedDrainIsReferenceRun :=
  fun payload _ hr ha => runAll_feedDrain_eq payload hr ha

/-! ### The bound of the accumulator -/

/-- R14 in closed form: the counter is even and at most 12, and `bits` stays below `63 * 2 ^ bit_counter`. -/
def InBound (p : Nat × Nat) : Prop :=
  p.2 % 2 = 0 ∧ p.2 ≤ 12 ∧ p.1 < 63 * 2 ^ p.2

theorem packerBounded_iff (s : State) : packerBounded s ↔ InBound (s.bits, s.bitCounter) := by
  constructor
  · rintro (⟨h, hb⟩ | ⟨h, hb⟩ | ⟨h, hb⟩ | ⟨h, hb⟩ | ⟨h, hb⟩ | ⟨h, hb⟩ | ⟨h, hb⟩) <;>
      exact ⟨by omega, by omega, show s.bits < 63 * 2 ^ s.bitCounter by rw [h]; omega⟩
  · intro ⟨(even : s.bitCounter % 2 = 0), (small : s.bitCounter ≤ 12), (hb : s.bits < 63 * 2 ^ s.bitCounter)⟩
    have cases : s.bitCounter = 0 ∨ s.bitCounter = 2 ∨ s.bitCounter = 4 ∨ s.bitCounter = 6 ∨ s.bitCounter = 8 ∨
        s.bitCounter = 10 ∨ s.bitCounter = 12 := by omega
    rcases cases with h | h | h | h | h | h | h <;> rw [h] at hb <;> unfold packerBounded <;> omega

theorem inBound_feed {v c : Nat} (b : Byte) (hc : c ≤ 5) (h : InBound (v, c)) : InBound (pureFeed b (v, c)) := by
  obtain ⟨even, -, hb⟩ := h
  have := b.isLt
  simp only at even hb
  refine ⟨?_, ?_, ?_⟩ <;> simp only [pureFeed, Nat.pow_add] <;> omega

/-- Both moduli of `Extract` stay below the bound of the counter that is left. -/
theorem inBound_extract {v c : Nat} (h : InBound (v, c)) : InBound ((extract v c).bits, (extract v c).bitCounter) := by
  obtain ⟨even, small, hb⟩ := h
  simp only at even small hb
  rcases Nat.lt_or_ge c 6 with low | high
  · have padded : v % (2 ^ c - 1) < 63 := by
      rcases Nat.eq_zero_or_pos c with rfl | hpos
      · simpa using hb
      · have mask : 2 ^ c - 1 < 63 := by
          have := Nat.pow_lt_pow_right (a := 2) (by decide) low
          omega
        have : 2 ^ 1 ≤ 2 ^ c := Nat.pow_le_pow_right (by decide) hpos
        exact (Nat.mod_lt v (by omega)).trans mask
    rw [extract_of_lt low]
    exact ⟨rfl, Nat.zero_le _, by simpa using padded⟩
  · rw [extract_of_le high]
    exact ⟨by simp only; omega, by simp only; omega, Nat.mod_lt v (by positivity)⟩

theorem inBound_pureExtractWhile {go : Nat → Bool} (fuel : Nat) {p : Nat × Nat} (h : InBound p) :
    InBound (pureExtractWhile go fuel p).2 := by
  induction fuel generalizing p with
  | zero => exact h
  | succ fuel ih =>
    rw [pureExtractWhile]
    split
    · exact ih (inBound_extract h)
    · exact h

/-- Settles O23. -/
theorem resetPackerBounded : Obligations.ResetPackerBounded :=
  .inl ⟨rfl, Nat.zero_le _⟩

/-! ### Finite realisations -/

theorem exact_iff (r : Realisation) : r.exact = true ↔ 18 ≤ r.accWidth ∧ 4 ≤ r.bcWidth := by
  simp [Realisation.exact]

/-- Widths of 18 and 4 bits hold every value within the bound. -/
theorem finiteFeed_of_inBound {r : Realisation} (hr : r.exact = true) {v c : Nat} (b : Byte) (hc : c ≤ 5)
    (h : InBound (v, c)) : finiteFeed r b (v, c) = some (pureFeed b (v, c)) := by
  obtain ⟨acc, bc⟩ := (exact_iff r).mp hr
  obtain ⟨-, small, hb⟩ := inBound_feed b hc h
  simp only [pureFeed] at small hb
  refine finiteFeed_of_fits hc ?_ ?_
  · calc v * 256 + b.toNat < 63 * 2 ^ (c + 8) := hb
      _ ≤ 63 * 2 ^ 12 := Nat.mul_le_mul_left _ (Nat.pow_le_pow_right (by decide) small)
      _ ≤ 2 ^ 18 := by decide
      _ ≤ 2 ^ r.accWidth := Nat.pow_le_pow_right (by decide) acc
  · calc c + 8 < 2 ^ 4 := by omega
      _ ≤ 2 ^ r.bcWidth := Nat.pow_le_pow_right (by decide) bc

/-- What PK.DRAIN leaves pending is no complete symbol. -/
theorem pureDrain_counter_le (v c : Nat) : (pureDrain c (v, c)).2.2 ≤ 5 := by
  obtain ⟨b, run, -⟩ := pureDrain_symbols v (le_refl c)
  rw [run]
  exact Nat.le_of_lt_succ (Nat.mod_lt c (by decide))

theorem finiteRun_eq_referenceRun {r : Realisation} (hr : r.exact = true) (payload : List Byte) {v c : Nat}
    (hc : c ≤ 5) (h : InBound (v, c)) : finiteRun r payload (v, c) = some (referenceRun payload (v, c)) := by
  induction payload generalizing v c with
  | nil => rfl
  | cons b payload ih =>
    have drained : InBound (pureDrain (c + 8) (pureFeed b (v, c))).2 := by
      rw [pureDrain_eq]
      exact inBound_pureExtractWhile _ (inBound_feed b hc h)
    have rest := ih (pureDrain_counter_le _ (c + 8)) drained
    rw [finiteRun, finiteFeed_of_inBound hr b hc h]
    exact congrArg (fun x => match x with
      | none => none
      | some y => some ((pureDrain (c + 8) (pureFeed b (v, c))).1 ++ y.1, y.2)) rest

/-- Settles O26. -/
theorem finiteRealisationExact : Obligations.FiniteRealisationExact := by
  intro r hr
  refine ⟨fun payload => finiteRun_eq_referenceRun hr payload (Nat.zero_le 5) ⟨rfl, Nat.zero_le _, by decide⟩, ?_⟩
  refine fun i session s => ⟨fun bounded adm accepts => ?_, finiteExec_of_oversize⟩
  by_cases feed : ∃ b, i = .pkFeed b
  · obtain ⟨b, rfl⟩ := feed
    by_cases hs : ready s
    · have few : s.bitCounter ≤ 5 := by
        simp only [admitted, Bool.and_eq_true, decide_eq_true_eq] at adm
        exact adm.2
      rw [finiteExec, if_pos hs, if_pos accepts, exec_pkFeed_of_ready hs]
      simp only [finiteFeed_of_inBound hr b few ((packerBounded_iff s).mp bounded)]
      rfl
    · exact finiteExec_of_not_ready r _ hs
  · exact finiteExec_of_accepts accepts fun b e => feed ⟨b, e⟩

/-- Twelve bits hold the window of every feed, so a narrow realisation differs in stale bits only. -/
theorem finiteRun_narrow {r : Realisation} (acc : 12 ≤ r.accWidth) (bc : 4 ≤ r.bcWidth) (payload : List Byte)
    {v w c : Nat} (even : c % 2 = 0) (hc : c ≤ 4) (same : w % 2 ^ c = v % 2 ^ c) :
    ∃ b, finiteRun r payload (w, c) = some ((referenceRun payload (v, c)).1, b, (referenceRun payload (v, c)).2.2) ∧
      b % 2 ^ (referenceRun payload (v, c)).2.2
        = (referenceRun payload (v, c)).2.1 % 2 ^ (referenceRun payload (v, c)).2.2 := by
  induction payload generalizing v w c with
  | nil => exact ⟨w, rfl, same⟩
  | cons x payload ih =>
    have counter : (c + 8) % 2 ^ r.bcWidth = c + 8 := by
      have : 2 ^ 4 ≤ 2 ^ r.bcWidth := Nat.pow_le_pow_right (by decide) bc
      exact Nat.mod_eq_of_lt (by omega)
    have fed : finiteFeed r x (w, c) = some ((w * 256 + x.toNat) % 2 ^ r.accWidth, c + 8) := by
      rw [finiteFeed, if_neg (by simp only; omega)]
      simp only [counter]
    have window : (w * 256 + x.toNat) % 2 ^ r.accWidth % 2 ^ (c + 8) = (v * 256 + x.toNat) % 2 ^ (c + 8) := by
      rw [Nat.mod_mod_of_dvd _ (Nat.pow_dvd_pow 2 (by omega)), feed_mod_eq x same]
    obtain ⟨d, drained, kept⟩ := pureDrain_symbols ((w * 256 + x.toNat) % 2 ^ r.accWidth) (le_refl (c + 8))
    obtain ⟨e, drained', kept'⟩ := pureDrain_symbols (v * 256 + x.toNat) (le_refl (c + 8))
    have left : (c + 8) % 6 ≤ c + 8 := Nat.mod_le _ _
    have agree : d % 2 ^ ((c + 8) % 6) = e % 2 ^ ((c + 8) % 6) := by
      rw [kept, kept']
      exact (show _ ≡ _ [MOD 2 ^ (c + 8)] from window).of_dvd (Nat.pow_dvd_pow 2 left)
    obtain ⟨b, run, rest⟩ := ih (by omega) (by omega) agree
    have whole : referenceRun (x :: payload) (v, c) = (symbols (v * 256 + x.toNat) (c + 8) ((c + 8) / 6)
        ++ (referenceRun payload (e, (c + 8) % 6)).1, (referenceRun payload (e, (c + 8) % 6)).2) := by
      simp only [referenceRun, pureFeed, drained']
    rw [whole]
    refine ⟨b, ?_, rest⟩
    rw [finiteRun, fed]
    simp only [drained, run, symbols_congr _ window]

/-- Settles O27. -/
theorem narrowRealisationSameBytes : Obligations.NarrowRealisationSameBytes :=
  fun _ payload acc bc => finiteRun_narrow acc bc payload rfl (Nat.zero_le 4) rfl

end Sys2Proof.PackerSession
end

section
/-! The wire bytes as bit layouts (R45 to R51), the header they form (R46, R70), and the decoder against the encoder
(R54 to R56). -/

namespace Sys2Proof.WireBytes

open Sys2Proof Sys2Proof.Machine Sys2Proof.Reference

/-! ### Bit layouts and values -/

theorem encodeBank_eq (bank : Bank) : encodeBank bank = if bank = .three then 1#1 else 0#1 := by
  cases bank <;> rfl

theorem decodeBank_encodeBank (bank : Bank) : decodeBank (encodeBank bank) = bank := by
  cases bank <;> rfl

theorem decodeFlag_encodeFlag (b : Bool) : decodeFlag (encodeFlag b) = b := by
  cases b <;> rfl

theorem tagged_append_eq_ofNat (d : BitVec 6) : 0b01#2 ++ d = BitVec.ofNat 8 (0x40 + d.toNat) := by
  revert d
  decide

theorem taggedByte_eq_append (d : BitVec 6) : taggedByte d = 0b01#2 ++ d := by
  revert d
  decide

theorem headerB1_append_eq_ofNat (bank : Bank) (d : BitVec 4) :
    0b010#3 ++ encodeBank bank ++ d = BitVec.ofNat 8 (0x40 + (if bank = .three then 0x10 else 0) + d.toNat) := by
  cases bank <;> revert d <;> decide

theorem headerB1Byte_eq_append (bank : Bank) (d : BitVec 4) :
    headerB1Byte bank d = 0b010#3 ++ encodeBank bank ++ d := by
  cases bank <;> revert d <;> decide

theorem row_append_eq_markupByte (row : BitVec 5) : 0b010#3 ++ row = markupByte row.toNat := by
  revert row
  decide

theorem col_append_eq_markupByte (col : BitVec 6) : 0b01#2 ++ col = markupByte col.toNat :=
  tagged_append_eq_ofNat col

/-! ### The header -/

theorem digit1_toNat (a : Addr) : (a.extractLsb' 12 4).toNat = a.toNat / 64 / 64 % 64 := by
  rw [BitVec.extractLsb'_toNat, Nat.shiftRight_eq_div_pow]
  have := a.isLt
  omega

theorem digit2_toNat (a : Addr) : (a.extractLsb' 6 6).toNat = a.toNat / 64 % 64 := by
  rw [BitVec.extractLsb'_toNat, Nat.shiftRight_eq_div_pow]

theorem digit3_toNat (a : Addr) : (a.extractLsb' 0 6).toNat = a.toNat % 64 := by
  rw [BitVec.extractLsb'_toNat, Nat.shiftRight_zero]

theorem headerBytes_eq (a : Addr) (bank : Bank) :
    headerBytes a bank =
      [0b010#3 ++ encodeBank bank ++ a.extractLsb' 12 4, 0b01#2 ++ a.extractLsb' 6 6, 0b01#2 ++ a.extractLsb' 0 6] := by
  rw [headerBytes, encodeBank_eq]

/-- The digit algorithm of R69 is the bit layout of R46. -/
theorem addrEnc_eq_headerBytes (a : Addr) (bank : Bank) : addrEnc a bank = headerBytes a bank := by
  rw [AddressEncoder.addrEnc_eq_digits, headerBytes_eq, headerB1_append_eq_ofNat, tagged_append_eq_ofNat,
    tagged_append_eq_ofNat, digit1_toNat, digit2_toNat, digit3_toNat]

/-- Settles O28. -/
theorem headerClosedForm : Obligations.HeaderClosedForm := by
  refine fun a bank => ⟨?_, addrEnc_eq_headerBytes a bank⟩
  rw [addrEnc_eq_headerBytes, headerBytes_eq, ← headerB1Byte_eq_append, ← taggedByte_eq_append, ← taggedByte_eq_append]
  cases bank <;> rfl

/-- Reading a tagged byte back: its six data bits, and its place in 0x40 to 0x7F. -/
theorem tagged_append_read (d : BitVec 6) :
    ((0b01#2 ++ d) &&& 0x3F#8).toNat = d.toNat ∧ 0x40 ≤ (0b01#2 ++ d).toNat ∧ (0b01#2 ++ d).toNat ≤ 0x7F := by
  revert d
  decide

/-- Reading the first header byte back: the digit, the bank bit, and its place in 0x40 to 0x5F. -/
theorem headerB1_append_read (bank : Bank) (d : BitVec 4) :
    ((0b010#3 ++ encodeBank bank ++ d) &&& 0x0F#8).toNat = d.toNat ∧
    (bank = .three ↔ (0b010#3 ++ encodeBank bank ++ d) &&& 0x10#8 ≠ 0#8) ∧
    0x40 ≤ (0b010#3 ++ encodeBank bank ++ d).toNat ∧ (0b010#3 ++ encodeBank bank ++ d).toNat ≤ 0x5F := by
  cases bank <;> revert d <;> decide

theorem headerB1_three_eq_or (d : BitVec 4) :
    0b010#3 ++ encodeBank .three ++ d = (0b010#3 ++ encodeBank .two ++ d) ||| 0x10#8 := by
  revert d
  decide

theorem mem_headerBytes_range {a : Addr} {bank : Bank} {b : Byte} (h : b ∈ headerBytes a bank) :
    0x40 ≤ b.toNat ∧ b.toNat ≤ 0x7F := by
  rw [headerBytes_eq, List.mem_cons, List.mem_cons, List.mem_singleton] at h
  rcases h with rfl | rfl | rfl
  · obtain ⟨-, -, low, high⟩ := headerB1_append_read bank (a.extractLsb' 12 4)
    exact ⟨low, high.trans (by decide)⟩
  · exact (tagged_append_read _).2
  · exact (tagged_append_read _).2

/-- Settles O29: the header is read back digit by digit. -/
theorem headerDeterminesAddressAndBank : Obligations.HeaderDeterminesAddressAndBank := by
  refine ⟨fun a bank => ⟨_, _, _, (addrEnc_eq_headerBytes a bank).trans (headerBytes_eq a bank), ?_⟩, fun a => ?_⟩
  · obtain ⟨read1, bankBit, low1, high1⟩ := headerB1_append_read bank (a.extractLsb' 12 4)
    obtain ⟨read2, low2, high2⟩ := tagged_append_read (a.extractLsb' 6 6)
    obtain ⟨read3, low3, high3⟩ := tagged_append_read (a.extractLsb' 0 6)
    refine ⟨?_, bankBit, low1, high1, low2, high2, low3, high3⟩
    rw [read1, read2, read3, digit1_toNat, digit2_toNat, digit3_toNat]
    have := a.isLt
    omega
  · refine ⟨_, _, _, (addrEnc_eq_headerBytes a .two).trans (headerBytes_eq a .two), ?_⟩
    rw [addrEnc_eq_headerBytes, headerBytes_eq, headerB1_three_eq_or]

/-- The header determines address and bank. -/
theorem headerBytes_injective {a a' : Addr} {bank bank' : Bank} (h : headerBytes a bank = headerBytes a' bank') :
    a = a' ∧ bank = bank' := by
  obtain ⟨b1, b2, b3, e, value, bankBit, -⟩ := headerDeterminesAddressAndBank.1 a bank
  obtain ⟨c1, c2, c3, e', value', bankBit', -⟩ := headerDeterminesAddressAndBank.1 a' bank'
  rw [addrEnc_eq_headerBytes] at e e'
  rw [← h, e] at e'
  injection e' with h1 h'
  injection h' with h2 h''
  injection h'' with h3 _
  subst h1 h2 h3
  refine ⟨BitVec.eq_of_toNat_eq (value.trans value'.symm), ?_⟩
  have same : bank = .three ↔ bank' = .three := bankBit.trans bankBit'.symm
  match bank, bank', same with
  | .two, .two, _ => rfl
  | .three, .three, _ => rfl
  | .two, .three, same => exact nomatch same.mpr rfl
  | .three, .two, same => exact nomatch same.mp rfl

/-! ### Reading one byte at its position -/

theorem fixedByte_eq_some (value b : Byte) (i j : Instr) : fixedByte value b i = some j ↔ b = value ∧ i = j := by
  unfold fixedByte
  split <;> simp [*]

theorem eq_tagged_append_iff (b : Byte) (d : BitVec 6) :
    b = 0b01#2 ++ d ↔ b.extractLsb' 6 2 = 0b01#2 ∧ b.extractLsb' 0 6 = d := by
  constructor
  · rintro rfl
    revert d
    decide
  · rintro ⟨tag, rfl⟩
    revert b
    decide

theorem eq_row_append_iff (b : Byte) (row : BitVec 5) :
    b = 0b010#3 ++ row ↔ b.extractLsb' 5 3 = 0b010#3 ∧ b.extractLsb' 0 5 = row := by
  constructor
  · rintro rfl
    revert row
    decide
  · rintro ⟨tag, rfl⟩
    revert b
    decide

theorem eq_headerB1_append_iff (b : Byte) (bank : Bank) (d : BitVec 4) :
    b = 0b010#3 ++ encodeBank bank ++ d ↔
      b.extractLsb' 5 3 = 0b010#3 ∧ decodeBank (b.extractLsb' 4 1) = bank ∧ b.extractLsb' 0 4 = d := by
  constructor
  · rintro rfl
    cases bank <;> revert d <;> decide
  · rintro ⟨tag, rfl, rfl⟩
    revert b
    decide

theorem taggedByte?_eq_some (b : Byte) (i : BitVec 6 → Instr) (j : Instr) :
    taggedByte? b i = some j ↔ ∃ d, b = 0b01#2 ++ d ∧ i d = j := by
  simp only [taggedByte?, eq_tagged_append_iff]
  split <;> simp [*]

theorem rowByte?_eq_some (b : Byte) (i : BitVec 5 → Instr) (j : Instr) :
    rowByte? b i = some j ↔ ∃ row, b = 0b010#3 ++ row ∧ rowInRange row = true ∧ i row = j := by
  simp only [rowByte?, eq_row_append_iff]
  split <;> rename_i h
  · simp [h]
  · simp only [reduceCtorEq, false_iff]
    rintro ⟨row, ⟨tag, rfl⟩, legal, -⟩
    exact h ⟨tag, legal⟩

/-! ### Decoding against encoding -/

theorem decode_wire_eq_ok (slot : WireSlot) (b : Byte) (i : Instr) :
    decode (.wire slot b) = .ok i ↔ decodeWire slot b = some i := by
  rw [decode]
  cases decodeWire slot b <;> simp

theorem decodeWire_headerB1_eq_some (b : Byte) (i : Instr) :
    decodeWire .headerB1 b = some i ↔
      ∃ bank d, b = 0b010#3 ++ encodeBank bank ++ d ∧ Instr.wireHeaderB1 bank d = i := by
  simp only [decodeWire, decodeBlockByte, eq_headerB1_append_iff]
  split <;> simp [*]

theorem decodeStepSeqByte_two_eq_some (b : Byte) (i : Instr) :
    decodeStepSeqByte 2 b = some i ↔
      ∃ col, b = 0b01#2 ++ col ∧ colInRange col = true ∧ Instr.wireStepSeq2 col = i := by
  simp only [decodeStepSeqByte, eq_tagged_append_iff]
  split <;> rename_i h
  · simp [h]
  · simp only [reduceCtorEq, false_iff]
    rintro ⟨col, ⟨tag, rfl⟩, legal, -⟩
    exact h ⟨tag, legal⟩

/-- What encodes to a byte at a position of a block is what is read there. -/
theorem decodeWire_encode {i : Instr} {slot : WireSlot} {b : Byte} (hi : i.wellFormed = true)
    (h : encode i = .wire slot b) : decodeWire slot b = some i := by
  cases i <;> cases h
  case wireHeaderB1 bank d => exact (decodeWire_headerB1_eq_some _ _).mpr ⟨bank, d, rfl, rfl⟩
  case wireHeaderB2 d => exact (taggedByte?_eq_some _ _ _).mpr ⟨d, rfl, rfl⟩
  case wireHeaderB3 d => exact (taggedByte?_eq_some _ _ _).mpr ⟨d, rfl, rfl⟩
  case wireSymbol d => exact (taggedByte?_eq_some _ _ _).mpr ⟨d, rfl, rfl⟩
  case wireStartSeq1 row => exact (rowByte?_eq_some _ _ _).mpr ⟨row, rfl, hi, rfl⟩
  case wireStartSeq8 row => exact (rowByte?_eq_some _ _ _).mpr ⟨row, rfl, hi, rfl⟩
  case wireStepSeq1 row => exact (rowByte?_eq_some _ _ _).mpr ⟨row, rfl, hi, rfl⟩
  case wireStepSeq2 col => exact (decodeStepSeqByte_two_eq_some _ _).mpr ⟨col, rfl, hi, rfl⟩
  all_goals rfl

/-- `i` is the well-formed instruction that encodes to the byte `b` at position `slot`. -/
def Stands (slot : WireSlot) (b : Byte) (i : Instr) : Prop :=
  encode i = .wire slot b ∧ i.wellFormed = true

theorem stands_of_fixedByte {slot : WireSlot} {value b : Byte} {i j : Instr}
    (h : fixedByte value b i = some j) (hi : Stands slot value i) : Stands slot b j := by
  obtain ⟨rfl, rfl⟩ := (fixedByte_eq_some _ _ _ _).mp h
  exact hi

theorem stands_of_taggedByte {slot : WireSlot} {b : Byte} {i : BitVec 6 → Instr} {j : Instr}
    (h : taggedByte? b i = some j) (hi : ∀ d, Stands slot (0b01#2 ++ d) (i d)) : Stands slot b j := by
  obtain ⟨d, rfl, rfl⟩ := (taggedByte?_eq_some _ _ _).mp h
  exact hi d

theorem stands_of_rowByte {slot : WireSlot} {b : Byte} {i : BitVec 5 → Instr} {j : Instr}
    (h : rowByte? b i = some j) (hi : ∀ row, rowInRange row = true → Stands slot (0b010#3 ++ row) (i row)) :
    Stands slot b j := by
  obtain ⟨row, rfl, legal, rfl⟩ := (rowByte?_eq_some _ _ _).mp h
  exact hi row legal

theorem stands_of_decodeWire_endMarker {b : Byte} {i : Instr} (h : decodeWire .endMarker b = some i) :
    Stands .endMarker b i := by
  simp only [decodeWire, decodeBlockByte] at h
  split_ifs at h with h1 h2 h3 h4 h5 <;> cases h <;> subst b <;> exact ⟨rfl, rfl⟩

theorem stands_of_decodeStartSeqByte {index : Fin 10} {b : Byte} {i : Instr}
    (h : decodeStartSeqByte index.val b = some i) : Stands (.startSeq index) b i := by
  match index with
  | 0 | 2 | 3 | 4 | 5 | 6 | 7 | 9 => exact stands_of_fixedByte h ⟨rfl, rfl⟩
  | 1 | 8 => exact stands_of_rowByte h fun _ legal => ⟨rfl, legal⟩

theorem stands_of_decodeStepSeqByte {index : Fin 6} {b : Byte} {i : Instr}
    (h : decodeStepSeqByte index.val b = some i) : Stands (.stepSeq index) b i := by
  match index with
  | 0 | 3 | 4 | 5 => exact stands_of_fixedByte h ⟨rfl, rfl⟩
  | 1 => exact stands_of_rowByte h fun _ legal => ⟨rfl, legal⟩
  | 2 =>
    obtain ⟨col, rfl, legal, rfl⟩ := (decodeStepSeqByte_two_eq_some _ _).mp h
    exact ⟨rfl, legal⟩

/-- What is read at a position of the output stream encodes to the byte that stands there. -/
theorem stands_of_decodeWire {slot : WireSlot} {b : Byte} {i : Instr} (h : decodeWire slot b = some i) :
    Stands slot b i := by
  cases slot with
  | startMarker0 | startMarker1 => exact stands_of_fixedByte h ⟨rfl, rfl⟩
  | headerB1 =>
    obtain ⟨bank, d, rfl, rfl⟩ := (decodeWire_headerB1_eq_some _ _).mp h
    exact ⟨rfl, rfl⟩
  | headerB2 | headerB3 | symbol => exact stands_of_taggedByte h fun _ => ⟨rfl, rfl⟩
  | endMarker => exact stands_of_decodeWire_endMarker h
  | startSeq index => exact stands_of_decodeStartSeqByte h
  | stepSeq index => exact stands_of_decodeStepSeqByte h

theorem decode_encode_of_command {i : Instr} {op : BitVec 4} {p : Ports} (h : encode i = .command op p) :
    decode (encode i) = .ok i := by
  cases i
  case aeEncode a bank | bwWriteBlock a bank len em | psSplit a bank size row |
      cvConvert a bank size valid row preload =>
    simp [encode, decode, decodeCommand, decodeBank_encodeBank, decodeFlag_encodeFlag]
  all_goals solve | rfl | cases h

/-- Settles O5. -/
theorem decodeOfEncode : Obligations.DecodeOfEncode := by
  rintro i (hi | ⟨op, p, h⟩)
  · cases h : encode i with
    | command op p => rw [← h, decode_encode_of_command h]
    | wire slot b => exact (decode_wire_eq_ok _ _ _).mpr (decodeWire_encode hi h)
  · exact decode_encode_of_command h

/-- Each of the sixteen command codes keeps its code. -/
theorem encode_decodeCommand (op : BitVec 4) (p : Ports) : ∃ q, encode (decodeCommand op p) = .command op q := by
  obtain ⟨⟨v, hv⟩⟩ := op
  interval_cases v <;> exact ⟨_, rfl⟩

/-- Settles O6. -/
theorem encodeOfDecode : Obligations.EncodeOfDecode := by
  refine ⟨fun slot b i h => stands_of_decodeWire ((decode_wire_eq_ok _ _ _).mp h), fun op p i h => ?_⟩
  obtain rfl : decodeCommand op p = i := Except.ok.inj h
  obtain ⟨q, hq⟩ := encode_decodeCommand op p
  have again := decode_encode_of_command hq
  rw [hq] at again
  exact ⟨q, hq, Except.ok.inj again⟩

/-- Settles O7. -/
theorem specRecordsDecode : Obligations.SpecRecordsDecode :=
  ⟨rfl, rfl, rfl, rfl, rfl, rfl⟩

/-- Settles O8. -/
theorem reservedCodesRefused : Obligations.ReservedCodesRefused := by
  refine ⟨fun _ => rfl, fun _ => rfl, fun _ => rfl, fun _ => rfl, fun _ => rfl, fun op p h => ?_⟩
  obtain ⟨⟨v, hv⟩⟩ := op
  have reserved : 0xB ≤ v := h
  interval_cases v <;> rfl

/-- Settles O9. -/
theorem headerBytesDecodeToTheirRows : Obligations.HeaderBytesDecodeToTheirRows := by
  refine fun a bank => ⟨_, _, _, (addrEnc_eq_headerBytes a bank).trans (headerBytes_eq a bank), ?_, ?_, ?_⟩ <;>
    exact (decode_wire_eq_ok _ _ _).mpr (decodeWire_encode rfl rfl)

end Sys2Proof.WireBytes
end

section
/-! One step of the core (R5, R23, R90, R93, R98), the wire rows as operations (log entry 5), and what every operation
keeps, over all rows of the opcode table. -/

namespace Sys2Proof.Stepping

open Sys2Proof Sys2Proof.Machine Sys2Proof.Safety Sys2Proof.Reference

/-! ### The step -/

theorem step_of_resetRequest {s : State} (h : s.resetRequest = true) : step s = .next (hardwareReset s) :=
  if_pos h

theorem step_of_no_resetRequest {s : State} (h : s.resetRequest = false) : step s = whenReady s takeCommand := by
  rw [step, coreStep, h, if_neg Bool.false_ne_true]

theorem takeCommand_of_nil {s : State} (h : s.commands = []) : takeCommand s = .next s := by
  unfold takeCommand
  rw [h]

theorem takeCommand_of_decoded {s : State} {record : Record} {rest : List Record} {i : Instr}
    (hc : s.commands = record :: rest) (hd : decode record = .ok i) :
    takeCommand s = exec i { s with commands := rest } := by
  unfold takeCommand
  simp only [hc, hd]

theorem takeCommand_of_rejected {s : State} {record : Record} {rest : List Record} {why : Reject}
    (hc : s.commands = record :: rest) (hd : decode record = .error why) :
    takeCommand s = .refused (.rejectedRecord why) := by
  unfold takeCommand
  simp only [hc, hd]

/-- What a step that answers a next state has done: the hardware reset, nothing, or one instruction. -/
theorem step_cases {s t : State} (h : step s = .next t) :
    (s.resetRequest = true ∧ t = hardwareReset s) ∨ t = s ∨
    (ready s ∧ ∃ rest i, exec i { s with commands := rest } = .next t) := by
  by_cases hreset : s.resetRequest = true
  · rw [step_of_resetRequest hreset] at h
    exact .inl ⟨hreset, (Host.Outcome.next.inj h).symm⟩
  · rw [step_of_no_resetRequest (Bool.eq_false_iff.mpr hreset)] at h
    by_cases hr : ready s
    · rw [whenReady_of_ready hr] at h
      cases hc : s.commands with
      | nil =>
        rw [takeCommand_of_nil hc] at h
        exact .inr (.inl (Host.Outcome.next.inj h).symm)
      | cons record rest =>
        cases hd : decode record with
        | error why =>
          rw [takeCommand_of_rejected hc hd] at h
          cases h
        | ok i => exact .inr (.inr ⟨hr, rest, i, (takeCommand_of_decoded hc hd).symm.trans h⟩)
    · rw [whenReady_of_not_ready hr] at h
      exact .inr (.inl (Host.Outcome.next.inj h).symm)

/-- Settles O1. -/
theorem hardwareResetValues : Obligations.HardwareResetValues :=
  ⟨⟨rfl, rfl, rfl, rfl, rfl⟩,
    fun _ h => ⟨_, step_of_resetRequest h, rfl, rfl, rfl, rfl, rfl, rfl, rfl⟩⟩

/-- Settles O3. -/
theorem idleCoreWaits : Obligations.IdleCoreWaits := by
  intro s hreset hc
  rw [step_of_no_resetRequest hreset]
  by_cases hr : ready s
  · rw [whenReady_of_ready hr, takeCommand_of_nil hc]
  · rw [whenReady_of_not_ready hr]

/-- Settles O4. -/
theorem stepRunsDecodedInstruction : Obligations.StepRunsDecodedInstruction := by
  intro s record rest i hreset hfault hc hd
  rw [step_of_no_resetRequest hreset, whenReady_of_ready ⟨hfault, hreset⟩, takeCommand_of_decoded hc hd]

/-! ### The wire rows -/

theorem emitOperation_of_ready {s : State} (h : ready s) (b : Byte) : emitOperation b s = .next (emit b s) := by
  rw [emitOperation, whenReady_of_ready h]

theorem emitFieldOperation_of_legal {s : State} (h : ready s) {legal : Bool} (hl : legal = true) (value : Nat) :
    emitFieldOperation legal value s = .next (emit (markupByte value) s) := by
  rw [emitFieldOperation, whenReady_of_ready h, if_pos hl]

theorem emitFieldOperation_of_illegal {s : State} (h : ready s) {legal : Bool} (hl : legal = false) (value : Nat) :
    emitFieldOperation legal value s = .refused (.wireFieldOutOfRange value) := by
  rw [emitFieldOperation, whenReady_of_ready h, hl, if_neg Bool.false_ne_true]

/-- A wire row emits the byte it encodes to. -/
theorem exec_wire {i : Instr} {slot : WireSlot} {b : Byte} {s : State} (h : encode i = .wire slot b)
    (hi : i.wellFormed = true) (hs : ready s) : exec i s = .next (emit b s) := by
  cases i <;> cases h
  case wireHeaderB1 bank d =>
    rw [← WireBytes.headerB1Byte_eq_append]
    exact emitOperation_of_ready hs _
  case wireHeaderB2 d | wireHeaderB3 d | wireSymbol d =>
    rw [← WireBytes.taggedByte_eq_append]
    exact emitOperation_of_ready hs _
  case wireStartSeq1 row | wireStartSeq8 row | wireStepSeq1 row =>
    rw [WireBytes.row_append_eq_markupByte]
    exact emitFieldOperation_of_legal hs hi _
  case wireStepSeq2 col =>
    rw [WireBytes.col_append_eq_markupByte]
    exact emitFieldOperation_of_legal hs hi _
  all_goals exact emitOperation_of_ready hs _

theorem exec_wire_of_accepts {i : Instr} {slot : WireSlot} {b : Byte} {s : State} (hs : ready s)
    (ha : sinkAccepts s 1) (h : encode i = .wire slot b) (hi : i.wellFormed = true) :
    exec i s = .next (appended [b] s) := by
  rw [exec_wire h hi hs, emit_of_accepts ha]

/-- Settles O57. -/
theorem fixedWireBytesAppended : Obligations.FixedWireBytesAppended := by
  intro s hs ha x hx
  fin_cases hx <;> exact exec_wire_of_accepts hs ha rfl rfl

/-- Settles O58. -/
theorem taggedWireBytesAppended : Obligations.TaggedWireBytesAppended := by
  intro s hs ha
  refine ⟨fun bank d => ?_, fun d => ⟨?_, ?_, ?_⟩⟩
  · rw [← WireBytes.encodeBank_eq]
    exact exec_wire_of_accepts hs ha rfl rfl
  all_goals exact exec_wire_of_accepts hs ha rfl rfl

/-- A row or column field on the wire: in range its byte is appended, out of range it is refused. -/
theorem emitFieldOperation_outcomes {s : State} (hs : ready s) (legal : Bool) (value : Nat) :
    (legal = true → sinkAccepts s 1 →
      emitFieldOperation legal value s = .next (appended [BitVec.ofNat 8 (0x40 + value)] s)) ∧
    (legal = false → emitFieldOperation legal value s = .refused (.wireFieldOutOfRange value)) :=
  ⟨fun hl ha => by rw [emitFieldOperation_of_legal hs hl, emit_of_accepts ha, markupByte],
    fun hl => emitFieldOperation_of_illegal hs hl value⟩

theorem rowLegal_eq_false_iff (row : BitVec 5) : rowLegal row = false ↔ row.toNat = 0 ∨ 25 ≤ row.toNat := by
  rw [← Bool.not_eq_true, rowLegal_iff]
  omega

theorem colLegal_eq_false_iff (col : BitVec 6) : colLegal col = false ↔ col.toNat = 0 ∨ 41 ≤ col.toNat := by
  rw [← Bool.not_eq_true, colLegal_iff]
  omega

/-- Settles O59. -/
theorem markupFieldBytesAppended : Obligations.MarkupFieldBytesAppended := by
  intro s hs
  refine ⟨fun row i hi => ?_, fun col => ?_⟩
  · have field : exec i s = emitFieldOperation (rowLegal row) row.toNat s := by
      fin_cases hi <;> rfl
    obtain ⟨inRange, outOfRange⟩ := emitFieldOperation_outcomes hs (rowLegal row) row.toNat
    rw [field]
    exact ⟨fun ha low high => inRange ((rowLegal_iff row).mpr ⟨low, high⟩) ha,
      fun h => outOfRange ((rowLegal_eq_false_iff row).mpr h)⟩
  · obtain ⟨inRange, outOfRange⟩ := emitFieldOperation_outcomes hs (colLegal col) col.toNat
    exact ⟨fun ha low high => inRange ((colLegal_iff col).mpr ⟨low, high⟩) ha,
      fun h => outOfRange ((colLegal_eq_false_iff col).mpr h)⟩

/-- Settles O60. -/
theorem rejectedEmitRaisesIOError : Obligations.RejectedEmitRaisesIOError := by
  intro i s slot b hs h hi hrej
  rw [exec_wire h hi hs, PackerSession.emit_of_rejects hrej]
  rfl

/-! ### Every row of the opcode table -/

theorem exec_pkReset (s : State) : exec .pkReset s = whenReady s fun s => .next (packerReset s) := rfl

theorem exec_pkFeed (b : Byte) (s : State) : exec (.pkFeed b) s = whenReady s fun s => .next (packerFeed b s) := rfl

theorem exec_pkExtract (s : State) : exec .pkExtract s = whenReady s fun s =>
    if bitsPending s.bitCounter then .next (extractOne s) else .refused .extractWithNothingPending := rfl

theorem exec_aeEncode (a : Addr) (bank : Bank) (s : State) :
    exec (.aeEncode a bank) s = whenReady s fun s => .next (emitHeader a bank s) := rfl

theorem exec_bwWriteBlock (a : Addr) (bank : Bank) (len : Nat) (em : Byte) (s : State) :
    exec (.bwWriteBlock a bank len em) s = whenReady s fun s => match endMarkerOfByte em with
      | none => .refused (.endMarkerReserved em)
      | some marker => .next (writeBlock a bank len marker (loadBlockOperands a bank len s)) := rfl

theorem exec_psStartBlock (row : BitVec 5) (s : State) :
    exec (.psStartBlock row) s = whenReady s fun s => .next (startBlock row s) := rfl

theorem exec_psStepBlock (row : BitVec 5) (col : BitVec 6) (s : State) :
    exec (.psStepBlock row col) s = whenReady s fun s =>
      if rowLegal row && !colLegal col then .refused (.columnOutOfRange col) else .next (stepBlock row col s) := rfl

theorem exec_psSplit (a : Addr) (bank : Bank) (size : Nat) (row : BitVec 5) (s : State) :
    exec (.psSplit a bank size row) s
      = whenReady s fun s => .next (split true (loadSplitOperands a bank size row s)) := rfl

theorem exec_cvConvert (a : Addr) (bank : Bank) (size : Nat) (valid : Bool) (row : BitVec 5) (preload : List Byte)
    (s : State) :
    exec (.cvConvert a bank size valid row preload) s
      = whenReady s fun s => .next (convert preload (loadConvertOperands a bank size valid row s)) := rfl

/-- The instruction emits one byte, or is refused for its field. -/
def EmitsOneByte (i : Instr) : Prop :=
  ∃ (legal : Bool) (b : Byte) (why : Refusal), ∀ s : State,
    exec i s = whenReady s fun s => if legal = true then .next (emit b s) else .refused why

theorem emitsOneByte_of_wire {i : Instr} {slot : WireSlot} {b : Byte} (h : encode i = .wire slot b) :
    EmitsOneByte i := by
  cases i <;> cases h
  case wireStartSeq1 row | wireStartSeq8 row | wireStepSeq1 row =>
    exact ⟨rowLegal row, markupByte row.toNat, .wireFieldOutOfRange row.toNat, fun _ => rfl⟩
  case wireStepSeq2 col => exact ⟨colLegal col, markupByte col.toNat, .wireFieldOutOfRange col.toNat, fun _ => rfl⟩
  all_goals exact ⟨true, _, .extractWithNothingPending, fun _ => rfl⟩

/-- The instruction is refused in every state. -/
def RefusedAlways (i : Instr) : Prop :=
  ∃ why : Refusal, ∀ s : State, exec i s = .refused why

/-- A statement about every instruction: the eleven operations one by one, the wire rows and the reserved codes as two
classes. -/
theorem instr_classes {motive : Instr → Prop} (wire : ∀ i, EmitsOneByte i → motive i)
    (reserved : ∀ i, RefusedAlways i → i ∈ [Instr.reservedB, .reservedC, .reservedD, .reservedE, .reservedF] → motive i)
    (pkReset : motive .pkReset) (pkFeed : ∀ b, motive (.pkFeed b)) (pkExtract : motive .pkExtract)
    (pkDrain : motive .pkDrain) (pkFlush : motive .pkFlush) (aeEncode : ∀ a bank, motive (.aeEncode a bank))
    (bwWriteBlock : ∀ a bank len em, motive (.bwWriteBlock a bank len em))
    (psStartBlock : ∀ row, motive (.psStartBlock row)) (psStepBlock : ∀ row col, motive (.psStepBlock row col))
    (psSplit : ∀ a bank size row, motive (.psSplit a bank size row))
    (cvConvert : ∀ a bank size valid row preload, motive (.cvConvert a bank size valid row preload)) (i : Instr) :
    motive i := by
  cases i
  case pkReset => exact pkReset
  case pkFeed => exact pkFeed _
  case pkExtract => exact pkExtract
  case pkDrain => exact pkDrain
  case pkFlush => exact pkFlush
  case aeEncode => exact aeEncode _ _
  case bwWriteBlock => exact bwWriteBlock _ _ _ _
  case psStartBlock => exact psStartBlock _
  case psStepBlock => exact psStepBlock _ _
  case psSplit => exact psSplit _ _ _ _
  case cvConvert => exact cvConvert _ _ _ _ _ _
  case reservedB | reservedC | reservedD | reservedE | reservedF => exact reserved _ ⟨_, fun _ => rfl⟩ (by simp)
  all_goals exact wire _ (emitsOneByte_of_wire rfl)

/-- Settles O2. -/
theorem faultedCoreExecutesNothing : Obligations.FaultedCoreExecutesNothing := by
  refine ⟨fun s hfault hreset => ?_, fun s hr i => ?_⟩
  · rw [step_of_no_resetRequest hreset, whenReady_of_not_ready fun h => hfault h.1]
  · induction i using instr_classes with
    | wire i hi =>
      obtain ⟨legal, b, why, e⟩ := hi
      exact .inl ((e s).trans (whenReady_of_not_ready hr _))
    | reserved i _ hi => exact .inr hi
    | _ => exact .inl (if_neg hr)

/-- The next state, where the outcome is one, satisfies `P`. -/
def NextSatisfies (P : State → Prop) (o : Host.Outcome State Fault Refusal) : Prop :=
  ∀ t, o = .next t → P t

theorem nextSatisfies_next {P : State → Prop} {t : State} (h : P t) : NextSatisfies P (.next t) := by
  rintro _ ⟨⟩
  exact h

theorem nextSatisfies_refused (P : State → Prop) (why : Refusal) : NextSatisfies P (.refused why) := by
  rintro _ ⟨⟩

theorem nextSatisfies_whenReady {P : State → Prop} {s : State} {f : State → Host.Outcome State Fault Refusal}
    (h : P s) (hf : ready s → NextSatisfies P (f s)) : NextSatisfies P (whenReady s f) := by
  by_cases hr : ready s
  · rw [whenReady_of_ready hr]
    exact hf hr
  · rw [whenReady_of_not_ready hr]
    exact nextSatisfies_next h

/-- Neither a packer operation nor a composite: nothing but bytes of its own go to the output. -/
def emitsOnly : Instr → Bool
  | .pkReset | .pkFeed _ | .pkExtract | .pkDrain | .pkFlush => false
  | .bwWriteBlock _ _ _ _ | .psSplit _ _ _ _ | .cvConvert _ _ _ _ _ _ => false
  | _ => true

section Keeps

variable {P : State → Prop}

theorem exec_keeps_of_emitsOnly (he : KeptByEmit P) (hx : ∀ s, P s → P (raise .argumentError s)) {i : Instr}
    (hi : emitsOnly i = true) {s : State} (h : P s) : NextSatisfies P (exec i s) := by
  induction i using instr_classes with
  | wire i hw =>
    obtain ⟨legal, b, why, e⟩ := hw
    rw [e]
    refine nextSatisfies_whenReady h fun _ => ?_
    split
    · exact nextSatisfies_next (he _ _ h)
    · exact nextSatisfies_refused _ _
  | reserved i hr _ =>
    obtain ⟨why, e⟩ := hr
    rw [e]
    exact nextSatisfies_refused _ _
  | aeEncode a bank =>
    rw [exec_aeEncode]
    exact nextSatisfies_whenReady h fun _ => nextSatisfies_next (emitSeq_keeps he _ h)
  | psStartBlock row =>
    rw [exec_psStartBlock]
    exact nextSatisfies_whenReady h fun _ => nextSatisfies_next (startBlock_keeps he hx _ h)
  | psStepBlock row col =>
    rw [exec_psStepBlock]
    refine nextSatisfies_whenReady h fun _ => ?_
    split
    · exact nextSatisfies_refused _ _
    · exact nextSatisfies_next (stepBlock_keeps he hx _ _ h)
  | _ => cases hi

/-- What `Emit`s, accumulator updates and the ArgumentError keep, every instruction but the composites keeps. -/
theorem exec_keeps_of_primitive (he : KeptByEmit P) (hp : KeptByPacker P) (hx : ∀ s, P s → P (raise .argumentError s))
    {i : Instr} (hbw : ∀ a bank len em, i ≠ .bwWriteBlock a bank len em)
    (hps : ∀ a bank size row, i ≠ .psSplit a bank size row)
    (hcv : ∀ a bank size valid row preload, i ≠ .cvConvert a bank size valid row preload) {s : State} (h : P s) :
    NextSatisfies P (exec i s) := by
  cases i with
  | pkReset =>
    rw [exec_pkReset]
    exact nextSatisfies_whenReady h fun _ => nextSatisfies_next (hp _ _ _ h)
  | pkFeed b =>
    rw [exec_pkFeed]
    exact nextSatisfies_whenReady h fun _ => nextSatisfies_next (hp _ _ _ h)
  | pkExtract =>
    rw [exec_pkExtract]
    refine nextSatisfies_whenReady h fun _ => ?_
    split
    · exact nextSatisfies_next (extractOne_keeps he hp h)
    · exact nextSatisfies_refused _ _
  | pkDrain =>
    rw [BitPacker.exec_pkDrain]
    exact nextSatisfies_next (andThen_keeps h fun _ h => drain_keeps he hp h)
  | pkFlush =>
    rw [BitPacker.exec_pkFlush]
    exact nextSatisfies_next (andThen_keeps h fun _ h => flush_keeps he hp h)
  | bwWriteBlock a bank len em => exact absurd rfl (hbw a bank len em)
  | psSplit a bank size row => exact absurd rfl (hps a bank size row)
  | cvConvert a bank size valid row preload => exact absurd rfl (hcv a bank size valid row preload)
  | _ => exact exec_keeps_of_emitsOnly he hx rfl h

/-- `P` is kept by the loading of operand registers. -/
structure KeptByLoad (P : State → Prop) : Prop where
  block : ∀ (a : Addr) (bank : Bank) (len : Nat) (s : State), P s → P (loadBlockOperands a bank len s)
  split : ∀ (a : Addr) (bank : Bank) (size : Nat) (row : BitVec 5) (s : State),
    P s → P (loadSplitOperands a bank size row s)
  convert : ∀ (a : Addr) (bank : Bank) (size : Nat) (valid : Bool) (row : BitVec 5) (s : State),
    P s → P (loadConvertOperands a bank size valid row s)

/-- What every primitive update keeps, every instruction keeps. -/
theorem exec_keeps (he : KeptByEmit P) (hp : KeptByPacker P) (hr : KeptByRead P) (hs : KeptBySplitter P)
    (hl : KeptByLoad P) (i : Instr) {s : State} (h : P s) : NextSatisfies P (exec i s) := by
  have hx : ∀ s, P s → P (raise .argumentError s) := hs.2.2.2.2
  cases i with
  | bwWriteBlock a bank len em =>
    rw [exec_bwWriteBlock]
    refine nextSatisfies_whenReady h fun _ => ?_
    split
    · exact nextSatisfies_refused _ _
    · exact nextSatisfies_next (writeBlock_keeps he hp hr _ _ _ _ (hl.block _ _ _ _ h))
  | psSplit a bank size row =>
    rw [exec_psSplit]
    exact nextSatisfies_whenReady h fun _ => nextSatisfies_next (split_keeps he hp hr hs _ (hl.split _ _ _ _ _ h))
  | cvConvert a bank size valid row preload =>
    rw [exec_cvConvert]
    exact nextSatisfies_whenReady h fun _ =>
      nextSatisfies_next (convert_keeps he hp hr hs _ (hl.convert _ _ _ _ _ _ h))
  | _ =>
    exact exec_keeps_of_primitive he hp hx (fun _ _ _ _ => Instr.noConfusion) (fun _ _ _ _ => Instr.noConfusion)
      (fun _ _ _ _ _ _ => Instr.noConfusion) h

end Keeps

/-! ### What every instruction keeps -/

theorem isPrefix_keptByEmit (out : List Byte) : KeptByEmit fun t => out <+: t.out := by
  intro b s h
  rcases emit_cases b s with ⟨-, e⟩ | ⟨rest, -, e⟩ | ⟨rest, -, e⟩ <;> rw [e]
  · exact h.trans (List.prefix_append _ _)
  · exact h
  · exact h

theorem exec_out (i : Instr) (s : State) : NextSatisfies (fun t => s.out <+: t.out) (exec i s) :=
  exec_keeps (isPrefix_keptByEmit s.out) (fun _ _ _ h => h) ⟨fun _ _ h => h, fun _ _ h => h, fun _ _ h => h⟩
    ⟨fun _ _ h => h, fun _ _ h => h, fun _ _ h => h, fun _ h => h, fun _ h => h⟩
    ⟨fun _ _ _ _ h => h, fun _ _ _ _ _ h => h, fun _ _ _ _ _ _ h => h⟩ i (List.prefix_refl _)

/-- The payload and the command channel belong to the environment. -/
abbrev SameEnvironment (s t : State) : Prop :=
  t.pay = s.pay ∧ t.commands = s.commands

theorem exec_environment (i : Instr) (s : State) : NextSatisfies (SameEnvironment s) (exec i s) := by
  have emits : KeptByEmit (SameEnvironment s) := by
    intro b t h
    rcases emit_cases b t with ⟨-, e⟩ | ⟨rest, -, e⟩ | ⟨rest, -, e⟩ <;> rw [e] <;> exact h
  exact exec_keeps emits (fun _ _ _ h => h) ⟨fun _ _ h => h, fun _ _ h => h, fun _ _ h => h⟩
    ⟨fun _ _ h => h, fun _ _ h => h, fun _ _ h => h, fun _ h => h, fun _ h => h⟩
    ⟨fun _ _ _ _ h => h, fun _ _ _ _ _ h => h, fun _ _ _ _ _ _ h => h⟩ i ⟨rfl, rfl⟩

/-- Settles O51. -/
theorem outputOnlyGrows : Obligations.OutputOnlyGrows := by
  intro s t hreset h
  rcases step_cases h with ⟨requested, -⟩ | rfl | ⟨-, rest, i, e⟩
  · rw [hreset] at requested
    cases requested
  · exact List.prefix_refl _
  · exact exec_out i { s with commands := rest } t e

/-- Settles O52. -/
theorem payloadAndExceptionKept : Obligations.PayloadAndExceptionKept := by
  intro s t h
  rcases step_cases h with ⟨requested, rfl⟩ | rfl | ⟨hr, rest, i, e⟩
  · exact ⟨rfl, fun hreset => by rw [hreset] at requested; cases requested⟩
  · exact ⟨rfl, fun _ _ => rfl⟩
  · exact ⟨(exec_environment i _ t e).1, fun _ hfault => absurd hr.1 hfault⟩

theorem registersKept_refl (s : State) : registersKept s s :=
  ⟨rfl, rfl, rfl, rfl, rfl, rfl, rfl, rfl, rfl, rfl, rfl, rfl, id⟩

theorem registersKept_keptByEmit (s : State) : KeptByEmit (registersKept s) := by
  intro b t h
  rcases emit_cases b t with ⟨-, e⟩ | ⟨rest, -, e⟩ | ⟨rest, -, e⟩ <;> rw [e]
  · exact h
  · exact h
  · obtain ⟨h1, h2, h3, h4, h5, h6, h7, h8, h9, h10, h11, h12, -⟩ := h
    exact ⟨h1, h2, h3, h4, h5, h6, h7, h8, h9, h10, h11, h12, fun _ => rfl⟩

/-- Settles O56. -/
theorem primitivesKeepRegisters : Obligations.PrimitivesKeepRegisters :=
  fun _ s t hbw hps hcv e =>
    exec_keeps_of_primitive (registersKept_keptByEmit s) (fun _ _ _ h => h) (fun _ h => h) hbw hps hcv
      (registersKept_refl s) t e

end Sys2Proof.Stepping
end

section
/-! The BlockWriter operation (R72 to R74): a block sends exactly the bytes of its frame, so its accepted, rejected and
starved runs are read off `writeBlock_writes`, and its bytes determine it. -/

namespace Sys2Proof.Blocks

open Sys2Proof Sys2Proof.Machine Sys2Proof.Safety Sys2Proof.Reference Sys2Proof.SymbolWindow Sys2Proof.Streams

/-! ### The packer inside a block -/

/-- The stale bits a block of this payload leaves in the accumulator. -/
def staleBits (payload : List Byte) : Nat :=
  (pureFlush (referenceRun payload (0, 0)).2).2.1

/-- The payload loop from a fresh packer emits the complete symbols of the payload. -/
theorem referenceRun_fresh (payload : List Byte) :
    ∃ b, referenceRun payload (0, 0)
        = ((symbolBytes payload).take (8 * payload.length / 6), b, 8 * payload.length % 6) ∧
      b % 2 ^ (8 * payload.length % 6) = feedAll payload 0 % 2 ^ (8 * payload.length % 6) := by
  have run := referenceRun_symbols payload 0 (Nat.zero_le 5)
  rw [Nat.zero_add] at run
  rwa [symbolBytes_eq, take_symbols _ _ (by rw [symbolCount]; omega)]

/-- The payload loop and the flush together emit the symbols of the payload and leave nothing pending. -/
theorem referenceRun_flush (payload : List Byte) :
    (referenceRun payload (0, 0)).1 ++ (pureFlush (referenceRun payload (0, 0)).2).1 = symbolBytes payload ∧
    (pureFlush (referenceRun payload (0, 0)).2).2 = (staleBits payload, 0) := by
  obtain ⟨b, run, kept⟩ := referenceRun_fresh payload
  obtain ⟨d, flushed⟩ := pureFlush_symbols b (8 * payload.length % 6)
  have left : 8 * payload.length % 6 = 8 * payload.length - 6 * (8 * payload.length / 6) := by omega
  refine ⟨?_, by rw [staleBits, run, flushed]⟩
  rw [run, flushed, symbolBytes_eq, take_symbols _ _ (by rw [symbolCount]; omega), symbols_congr _ kept, left,
    ← symbols_add]
  congr 1
  rw [symbolCount]
  omega

/-! ### The block on the output stream -/

theorem andThen_assoc (s : State) (f g : State → State) :
    andThen (andThen s f) g = andThen s fun t => andThen (f t) g := by
  rcases andThen_cases s f with ⟨h, e⟩ | ⟨h, e⟩
  · rw [e, andThen_of_ready h]
  · rw [e, andThen_of_not_ready h, andThen_of_not_ready h]

/-- The start marker and the header. -/
def openBlock (a : Addr) (bank : Bank) (s : State) : State :=
  andThen (emitSeq [start0, start1] s) (emitHeader a bank)

/-- The payload in a fresh packer and the flush. -/
def packBlock (len : Nat) (s : State) : State :=
  andThen (packPayload len (packerReset s)) flush

theorem writeBlock_eq (a : Addr) (bank : Bank) (len : Nat) (em : EndMarker) (s : State) :
    writeBlock a bank len em s
      = andThen (openBlock a bank s) fun s => andThen (packBlock len s) (emit (endMarkerByte em)) := by
  simp only [writeBlock, openBlock, packBlock, andThen_assoc]

/-- The bytes before the symbols of a block (R44). -/
abbrev openingBytes (a : Addr) (bank : Bank) : List Byte :=
  [0x1F#8, 0x3C#8] ++ headerBytes a bank

theorem openBlock_writes {s : State} (hs : ready s) (a : Addr) (bank : Bank) :
    Writes s (openingBytes a bank) (appended (openingBytes a bank) s) (openBlock a bank s) := by
  have header := Writes.emitSeq (s := appended [start0, start1] s) (headerBytes a bank) hs
  rw [appended_appended] at header
  rw [openBlock]
  refine (Writes.emitSeq [start0, start1] hs).andThen ?_
  rw [emitHeader, WireBytes.addrEnc_eq_headerBytes]
  exact header

theorem packBlock_writes {s : State} (hs : ready s) {len : Nat} (h : sourceDelivers s s.rdPtr len) :
    let payload := payloadFrom s s.rdPtr len
    Writes s (symbolBytes payload) (advanced (symbolBytes payload) len (staleBits payload, 0) s) (packBlock len s) := by
  intro payload
  obtain ⟨bytes, packer⟩ := referenceRun_flush payload
  let run := referenceRun payload (0, 0)
  have packs : Writes s run.1 (advanced run.1 len run.2 s) (packPayload len (packerReset s)) :=
    (packPayload_writes (s := packerReset s) len hs h).begun_before ⟨rfl, rfl, rfl, rfl⟩
  have flushes := flush_writes (s := advanced run.1 len run.2 s) hs
  dsimp only at flushes
  rw [advanced_advanced] at flushes
  rw [← bytes, ← packer]
  exact packs.andThen flushes

/-- BW.WRITE_BLOCK inside an operation sends the frame of the bytes it reads (R72). -/
theorem writeBlock_writes {s : State} (hs : ready s) (a : Addr) (bank : Bank) {len : Nat} (em : EndMarker)
    (h : sourceDelivers s s.rdPtr len) :
    let payload := payloadFrom s s.rdPtr len
    let bytes := blockBytes a bank payload (endMarkerByte em)
    Writes s bytes (advanced bytes len (staleBits payload, 0) s) (writeBlock a bank len em s) := by
  intro payload bytes
  let opened := appended (openingBytes a bank) s
  let packed := advanced (symbolBytes payload) len (staleBits payload, 0) opened
  have ends : Writes packed [endMarkerByte em] (advanced [endMarkerByte em] 0 (staleBits payload, 0) packed)
      (emit (endMarkerByte em) packed) := Writes.emit (s := packed) hs _
  have frame : openingBytes a bank ++ (symbolBytes payload ++ [endMarkerByte em]) = bytes := by
    simp only [bytes, blockBytes, List.append_assoc]
  have final : advanced [endMarkerByte em] 0 (staleBits payload, 0) packed
      = advanced bytes len (staleBits payload, 0) s := by
    simp only [packed, opened, appended_eq_advanced, advanced_advanced, ← frame, List.append_assoc, Nat.zero_add,
      Nat.add_zero]
  rw [writeBlock_eq, ← frame]
  refine (openBlock_writes hs a bank).andThen ?_
  rw [frame, ← final]
  exact (packBlock_writes (s := opened) hs h).andThen ends

theorem mem_endMarkers_iff (em : Byte) :
    em ∈ [0x21#8, 0x22#8, 0x28#8, 0x29#8, 0x2A#8] ↔ endMarkerLegal em = true := by
  simp [endMarkerLegal, or_assoc]

theorem exec_bwWriteBlock_of_marker {s : State} (hs : ready s) (a : Addr) (bank : Bank) (len : Nat) {em : Byte}
    (hem : em ∈ [0x21#8, 0x22#8, 0x28#8, 0x29#8, 0x2A#8]) :
    ∃ marker, endMarkerByte marker = em ∧
      exec (.bwWriteBlock a bank len em) s = .next (writeBlock a bank len marker (loadBlockOperands a bank len s)) := by
  rcases endMarkerOfByte_cases em with ⟨-, marker, some, byte⟩ | ⟨illegal, -⟩
  · refine ⟨marker, byte, ?_⟩
    rw [Stepping.exec_bwWriteBlock, whenReady_of_ready hs]
    simp only [some]
  · rw [(mem_endMarkers_iff em).mp hem] at illegal
    cases illegal

/-- Settles O32. -/
theorem writeBlockReservedMarkerRefused : Obligations.WriteBlockReservedMarkerRefused := by
  intro a bank len em s hs hem
  rw [mem_endMarkers_iff] at hem
  rcases endMarkerOfByte_cases em with ⟨legal, -⟩ | ⟨-, none⟩
  · exact absurd legal hem
  · rw [Stepping.exec_bwWriteBlock, whenReady_of_ready hs]
    simp only [none]

/-- What a standalone BW.WRITE_BLOCK sends. -/
theorem exec_bwWriteBlock_writes {s : State} (hs : ready s) (a : Addr) (bank : Bank) {len : Nat} {em : Byte}
    (hem : em ∈ [0x21#8, 0x22#8, 0x28#8, 0x29#8, 0x2A#8]) (h : sourceDelivers s 0 len) :
    let bytes := blockBytes a bank (s.pay.take len) em
    ∃ r, exec (.bwWriteBlock a bank len em) s = .next r ∧
      Writes s bytes (advanced bytes len (staleBits (s.pay.take len), 0) (loadBlockOperands a bank len s)) r := by
  obtain ⟨marker, rfl, e⟩ := exec_bwWriteBlock_of_marker hs a bank len hem
  exact ⟨_, e, (writeBlock_writes (s := loadBlockOperands a bank len s) hs a bank marker h).begun_before
    ⟨rfl, rfl, rfl, rfl⟩⟩

/-! ### Lengths -/

@[simp] theorem headerBytes_length (a : Addr) (bank : Bank) : (headerBytes a bank).length = 3 := rfl

theorem blockBytes_length (a : Addr) (bank : Bank) (payload : List Byte) (em : Byte) :
    (blockBytes a bank payload em).length = 6 + symbolCount payload.length := by
  simp only [blockBytes, List.length_append, headerBytes_length, symbolBytes_length, List.length_cons, List.length_nil]
  omega

theorem take_length_of_delivers {s : State} {len : Nat} (h : sourceDelivers s 0 len) :
    (s.pay.take len).length = len :=
  payloadFrom_length (start := 0) h.2

theorem sinkAccepts_block {s : State} {len : Nat} (a : Addr) (bank : Bank) (em : Byte) (h : sourceDelivers s 0 len)
    (ha : sinkAccepts s (6 + symbolCount len)) :
    sinkAccepts s (blockBytes a bank (s.pay.take len) em).length := by
  rwa [blockBytes_length, take_length_of_delivers h]

/-! ### The accepted block -/

/-- Settles O31. -/
theorem writeBlockAppendsFrame : Obligations.WriteBlockAppendsFrame := by
  intro a bank len em s hs hem ha h
  obtain ⟨r, e, writes⟩ := exec_bwWriteBlock_writes hs a bank hem h
  refine ⟨staleBits (s.pay.take len), ?_⟩
  rw [e, writes.completes (sinkAccepts_block a bank em h ha)]
  simp [advanced, appended, loadBlockOperands]

/-- Settles O33. -/
theorem writeBlockShape : Obligations.WriteBlockShape := by
  intro a bank len em s hs hem ha h
  obtain ⟨r, e, writes⟩ := exec_bwWriteBlock_writes hs a bank hem h
  have out : r.out = s.out ++ blockBytes a bank (s.pay.take len) em := by
    rw [writes.completes (sinkAccepts_block a bank em h ha), writes.out]
  have count : (symbolBytes (s.pay.take len)).length = (8 * len + 5) / 6 := by
    rw [symbolBytes_length, take_length_of_delivers h, symbolCount]
  refine ⟨r, headerBytes a bank, symbolBytes (s.pay.take len), e, ?_, rfl, count, ?_, fun b hb => ?_⟩
  · rw [out, blockBytes]
    simp only [List.append_assoc]
  · rw [out, List.length_append, blockBytes_length, take_length_of_delivers h, symbolCount]
  · rcases List.mem_append.mp hb with inHeader | inSymbols
    · exact WireBytes.mem_headerBytes_range inHeader
    · rw [symbolBytes_eq] at inSymbols
      exact mem_symbols_range inSymbols

/-- Settles O34: with no payload the packer stays fresh, so no stale bit is left either. -/
theorem zeroLengthBlock : Obligations.ZeroLengthBlock := by
  intro a bank em s hs hem ha
  have nothing : sourceDelivers s 0 0 := ⟨fun _ h => (List.not_mem_nil h).elim, Nat.zero_le _⟩
  obtain ⟨r, e, writes⟩ := exec_bwWriteBlock_writes hs a bank hem nothing
  have frame : blockBytes a bank (s.pay.take 0) em = [0x1F#8, 0x3C#8] ++ headerBytes a bank ++ [em] := by
    rw [List.take_zero, blockBytes, show symbolBytes [] = [] from rfl, List.append_nil]
  rw [e, writes.completes (sinkAccepts_block a bank em nothing ha), frame]
  rfl

/-! ### The rejected block -/

/-- Settles O35. -/
theorem writeBlockSinkFailureKeepsPrefix : Obligations.WriteBlockSinkFailureKeepsPrefix := by
  intro a bank len em s k hs hem hk hrej h
  obtain ⟨r, e, writes⟩ := exec_bwWriteBlock_writes hs a bank hem h
  have stopped := writes.stops k .failed (by rwa [blockBytes_length, take_length_of_delivers h]) hrej.1 hrej.2 nofun
  exact ⟨r, e, stopped.fault, stopped.pay, stopped.out⟩

/-! ### The starved block -/

theorem andThen_congr {s : State} {f g : State → State} (h : ready s → f s = g s) : andThen s f = andThen s g := by
  by_cases hs : ready s
  · rw [andThen_of_ready hs, andThen_of_ready hs, h hs]
  · rw [andThen_of_not_ready hs, andThen_of_not_ready hs]

theorem packPayload_add (m n : Nat) {s : State} (hs : ready s) :
    packPayload (m + n) s = andThen (packPayload m s) (packPayload n) := by
  induction m generalizing s with
  | zero => rw [Nat.zero_add, packPayload, andThen_of_ready hs]
  | succ m ih =>
    rw [Nat.add_right_comm, packPayload, packPayload, andThen_assoc]
    exact andThen_congr ih

theorem readByteThen_of_stops {s : State} (use : Byte → State → State)
    (h : s.pay[s.rdPtr]? = none ∧ s.sourceAnswers[0]? ≠ some .reset ∨ s.sourceAnswers[0]? = some .failed) :
    readByteThen use s = raise .ioError { s with sourceAnswers := s.sourceAnswers.drop 1 } := by
  rcases readByteThen_cases use s with ⟨b, hb, accepts, -⟩ | ⟨-, e⟩ | ⟨reset, -⟩
  · rcases h with ⟨hnone, -⟩ | failed
    · rw [hnone] at hb
      cases hb
    · have inside : Answer.failed ∈ s.sourceAnswers.take 1 :=
        List.mem_of_getElem? (i := 0) (by rwa [List.getElem?_take_of_lt Nat.one_pos])
      cases accepts _ inside
  · exact e
  · rcases h with ⟨-, noReset⟩ | failed
    · exact absurd reset noReset
    · rw [reset] at failed
      cases failed

theorem readByteThen_of_reset {s : State} (use : Byte → State → State) (h : s.sourceAnswers[0]? = some .reset) :
    readByteThen use s = stopForReset { s with sourceAnswers := s.sourceAnswers.drop 1 } := by
  rcases readByteThen_cases use s with ⟨b, -, accepts, -⟩ | ⟨⟨-, noReset⟩ | failed, -⟩ | ⟨-, e⟩
  · have inside : Answer.reset ∈ s.sourceAnswers.take 1 :=
      List.mem_of_getElem? (i := 0) (by rwa [List.getElem?_take_of_lt Nat.one_pos])
    cases accepts _ inside
  · exact absurd h noReset
  · rw [h] at failed
    cases failed
  · exact e

/-- A block whose read number `m` stops the operation ends in the state that read leaves, with the start marker, the
header and the complete symbols of the `m` bytes before it sent. -/
theorem writeBlock_of_read_stops {s : State} (hs : ready s) (a : Addr) (bank : Bank) {m len : Nat} (em : EndMarker)
    (hm : m < len) (h : sourceDelivers s s.rdPtr m) (ha : sinkAccepts s (5 + 8 * m / 6)) :
    let sent := openingBytes a bank ++ (symbolBytes (payloadFrom s s.rdPtr m)).take (8 * m / 6)
    ∃ packer, let t := advanced sent m packer s
      ¬ ready (packByte t) → writeBlock a bank len em s = packByte t := by
  intro sent
  obtain ⟨b, run, -⟩ := referenceRun_fresh (payloadFrom s s.rdPtr m)
  rw [payloadFrom_length h.2] at run
  let opened := appended (openingBytes a bank) s
  have packs := packPayload_writes (s := packerReset opened) m hs h
  have fresh : referenceRun (payloadFrom (packerReset opened) (packerReset opened).rdPtr m)
      ((packerReset opened).bits, (packerReset opened).bitCounter) = _ := run
  simp only [fresh] at packs
  have count : ((symbolBytes (payloadFrom s s.rdPtr m)).take (8 * m / 6)).length = 8 * m / 6 := by
    rw [List.length_take, symbolBytes_length, payloadFrom_length h.2, symbolCount]
    omega
  refine ⟨(b, 8 * m % 6), fun stops => ?_⟩
  have reads : packPayload m (packerReset opened) = advanced sent m (b, 8 * m % 6) s := by
    rw [packs.completes (by rw [count]; exact sinkAccepts_of_drop (s := s) (m := 5) rfl ha)]
    exact advanced_advanced (openingBytes a bank) _ 0 m (0, 0) _ s |>.trans (by rw [Nat.zero_add])
  obtain ⟨n, rfl⟩ := Nat.exists_eq_add_of_lt hm
  have starved : packPayload (m + n + 1) (packerReset opened) = packByte (advanced sent m (b, 8 * m % 6) s) := by
    rw [Nat.add_assoc, packPayload_add m (n + 1) (s := packerReset opened) hs, reads,
      andThen_of_ready (ready_advanced _ _ _ hs), packPayload, andThen_of_not_ready stops]
  rw [writeBlock_eq, (openBlock_writes hs a bank).completes (sinkAccepts_mono ha (Nat.le_add_right _ _)),
    andThen_of_ready (ready_appended _ hs), packBlock, starved, andThen_of_not_ready stops, andThen_of_not_ready stops]

/-- Settles O36: the read that stops the operation comes when the complete symbols before it have been sent. -/
theorem writeBlockSourceFailureStops : Obligations.WriteBlockSourceFailureStops := by
  intro a bank len m em s hs hem hm ha bytes
  obtain ⟨marker, -, e⟩ := exec_bwWriteBlock_of_marker hs a bank len hem
  let start := loadBlockOperands a bank len s
  have block (h : sourceDelivers s 0 m) : ∃ packer, ¬ ready (packByte (advanced bytes m packer start)) →
      writeBlock a bank len marker start = packByte (advanced bytes m packer start) :=
    writeBlock_of_read_stops (s := start) hs a bank marker hm h ha
  have nextAnswer (packer : Nat × Nat) :
      (advanced bytes m packer start).sourceAnswers[0]? = s.sourceAnswers[m]? := by
    simp [advanced, start]
  rw [e]
  constructor
  · rintro ⟨delivers, stops⟩
    obtain ⟨packer, starved⟩ := block delivers
    let t := advanced bytes m packer start
    have fails : packByte t = raise .ioError { t with sourceAnswers := t.sourceAnswers.drop 1 } := by
      refine readByteThen_of_stops _ ?_
      rw [nextAnswer]
      exact stops.imp_left fun ⟨atEnd, noReset⟩ => ⟨List.getElem?_eq_none (Nat.le_of_eq atEnd.symm), noReset⟩
    refine ⟨packByte t, congrArg _ (starved ?_), ?_⟩
    · rw [fails]
      exact not_ready_of_fault (e := .ioError) rfl
    · rw [fails]
      exact ⟨rfl, hs.2, rfl, rfl⟩
  · rintro ⟨delivers, reset⟩
    obtain ⟨packer, starved⟩ := block delivers
    let t := advanced bytes m packer start
    have stops : packByte t = stopForReset { t with sourceAnswers := t.sourceAnswers.drop 1 } :=
      readByteThen_of_reset _ ((nextAnswer packer).trans reset)
    refine ⟨packByte t, congrArg _ (starved ?_), ?_⟩
    · rw [stops]
      exact not_ready_of_reset rfl
    · rw [stops]
      exact ⟨hs.1, rfl, rfl, rfl⟩

/-! ### Reading a block back -/

theorem symbolByte_injective {x y : Nat} (hx : x < 64) (hy : y < 64) (h : symbolByte x = symbolByte y) : x = y := by
  have := congrArg BitVec.toNat h
  rw [symbolByte_toNat hx, symbolByte_toNat hy] at this
  omega

theorem byteBits_injective {b c : Byte} (h : byteBits b = byteBits c) : b = c := by
  refine BitVec.eq_of_toNat_eq (Nat.eq_of_testBit_eq fun i => ?_)
  rcases Nat.lt_or_ge i 8 with low | high
  · have bit := congrArg (fun l => l.getD (7 - i) false) h
    simp only [byteBits_getD _ (show 7 - i < 8 by omega), show 7 - (7 - i) = i by omega] at bit
    exact bit
  · rw [Nat.testBit_lt_two_pow (b.isLt.trans_le (Nat.pow_le_pow_right (by decide) high)),
      Nat.testBit_lt_two_pow (c.isLt.trans_le (Nat.pow_le_pow_right (by decide) high))]

theorem bitString_injective {p q : List Byte} (hl : p.length = q.length) (h : bitString p = bitString q) : p = q := by
  induction p generalizing q with
  | nil => exact (List.length_eq_zero_iff.mp hl.symm).symm
  | cons b p ih =>
    cases q with
    | nil => cases hl
    | cons c q =>
      obtain ⟨first, rest⟩ := List.append_inj (s₁ := byteBits b) (s₂ := byteBits c) h rfl
      rw [byteBits_injective first, ih (Nat.succ.inj hl) rest]

/-- The symbol bytes of a payload determine it: their number gives its length, and each symbol six of its bits. -/
theorem symbolBytes_injective {p q : List Byte} (h : symbolBytes p = symbolBytes q) : p = q := by
  have hl : p.length = q.length := by
    have := congrArg List.length h
    simp only [symbolBytes_length, symbolCount] at this
    omega
  refine bitString_injective hl (List.ext_getElem? fun i => ?_)
  rcases Nat.lt_or_ge i (8 * p.length) with inside | beyond
  · have group : topSymbol (feedAll p 0) (8 * p.length - 6 * (i / 6))
        = topSymbol (feedAll q 0) (8 * q.length - 6 * (i / 6)) := by
      rw [symbolBytes_eq, symbolBytes_eq, ← hl] at h
      rw [← hl]
      refine symbolByte_injective (topSymbol_lt _ _) (topSymbol_lt _ _) (List.map_inj_left.mp h _ ?_)
      rw [List.mem_range, symbolCount]
      omega
    have bit : (bitString p).getD i false = (bitString q).getD i false := by
      rw [← Nat.div_add_mod i 6, bitString_getD_group _ _ (Nat.mod_lt i (by decide)),
        bitString_getD_group _ _ (Nat.mod_lt i (by decide)), group]
    rw [List.getElem?_eq_getElem (by rwa [bitString_length]),
      List.getElem?_eq_getElem (by rwa [bitString_length, ← hl])]
    rwa [List.getD_eq_getElem _ _ (by rwa [bitString_length]),
      List.getD_eq_getElem _ _ (by rwa [bitString_length, ← hl]), ← Option.some_inj] at bit
  · rw [List.getElem?_eq_none (by rwa [bitString_length]), List.getElem?_eq_none (by rwa [bitString_length, ← hl])]

theorem blockBytes_injective {a a' : Addr} {bank bank' : Bank} {p p' : List Byte} {em em' : Byte}
    (h : blockBytes a bank p em = blockBytes a' bank' p' em') : a = a' ∧ bank = bank' ∧ em = em' ∧ p = p' := by
  obtain ⟨front, last⟩ := List.append_inj' h rfl
  obtain ⟨opening, symbols⟩ := List.append_inj front rfl
  obtain ⟨-, header⟩ := List.append_inj opening rfl
  obtain ⟨address, bank⟩ := WireBytes.headerBytes_injective header
  exact ⟨address, bank, (List.cons.inj last).1, symbolBytes_injective symbols⟩

/-- Settles O37. -/
theorem blockBytesDetermineBlock : Obligations.BlockBytesDetermineBlock := by
  intro a a' bank bank' len len' em em' bytes s s' t t' hs hs' hem hem' ha ha' h h' e e' out out'
  obtain ⟨r, er, writes⟩ := exec_bwWriteBlock_writes hs a bank hem h
  obtain ⟨r', er', writes'⟩ := exec_bwWriteBlock_writes hs' a' bank' hem' h'
  obtain rfl : r = t := Host.Outcome.next.inj (er.symm.trans e)
  obtain rfl : r' = t' := Host.Outcome.next.inj (er'.symm.trans e')
  have sent : blockBytes a bank (s.pay.take len) em = bytes := by
    rw [writes.completes (sinkAccepts_block a bank em h ha), writes.out] at out
    exact List.append_cancel_left out
  have sent' : blockBytes a' bank' (s'.pay.take len') em' = bytes := by
    rw [writes'.completes (sinkAccepts_block a' bank' em' h' ha'), writes'.out] at out'
    exact List.append_cancel_left out'
  exact blockBytes_injective (sent.trans sent'.symm)

end Sys2Proof.Blocks
end

section
/-! The ProgressSplitter operations (R75 to R81): the markup sequences, the block-size arithmetic, the payload plan, and
what an admitted PS.SPLIT sends: the start sequence, each entry of the plan with its step, the terminator. -/

namespace Sys2Proof.Splitter

open Sys2Proof Sys2Proof.Machine Sys2Proof.Safety Sys2Proof.Reference Sys2Proof.SymbolWindow Sys2Proof.Streams
open Sys2Proof.Blocks

/-! ### The markup operations -/

theorem startBlock_of_legal {row : BitVec 5} (h : rowLegal row = true) (s : State) :
    startBlock row s = emitSeq (startSeq row) s :=
  if_pos h

theorem startBlock_of_illegal {row : BitVec 5} (h : rowLegal row = false) (s : State) :
    startBlock row s = raise .argumentError s := by
  rw [startBlock, h, if_neg Bool.false_ne_true]

theorem stepBlock_of_legal {row : BitVec 5} (h : rowLegal row = true) (col : BitVec 6) (s : State) :
    stepBlock row col s = emitSeq (stepSeq row col) s :=
  if_pos h

theorem stepBlock_of_illegal {row : BitVec 5} (h : rowLegal row = false) (col : BitVec 6) (s : State) :
    stepBlock row col s = raise .argumentError s := by
  rw [stepBlock, h, if_neg Bool.false_ne_true]

/-- Settles O38. -/
theorem startBlockAppendsSequence : Obligations.StartBlockAppendsSequence := by
  intro row s hs sequence
  have run : exec (.psStartBlock row) s = .next (startBlock row s) := by
    rw [Stepping.exec_psStartBlock, whenReady_of_ready hs]
  rw [run]
  refine ⟨rfl, fun low high ha => ?_, fun h => ?_, fun low high k hk hrej => ?_⟩
  · rw [startBlock_of_legal ((rowLegal_iff row).mpr ⟨low, high⟩), emitSeq_of_accepts (startSeq row) hs ha]
    rfl
  · rw [startBlock_of_illegal ((Stepping.rowLegal_eq_false_iff row).mpr h)]
    rfl
  · rw [startBlock_of_legal ((rowLegal_iff row).mpr ⟨low, high⟩),
      AddressEncoder.emitSeq_of_rejects (startSeq row) hs hk hrej]
    rfl

theorem exec_psStepBlock_of_next {s : State} (hs : ready s) {row : BitVec 5} {col : BitVec 6}
    (h : rowLegal row = false ∨ colLegal col = true) :
    exec (.psStepBlock row col) s = .next (stepBlock row col s) := by
  have accepted : (rowLegal row && !colLegal col) = false := by
    rcases h with h | h <;> simp [h]
  rw [Stepping.exec_psStepBlock, whenReady_of_ready hs, accepted, if_neg Bool.false_ne_true]

/-- Settles O39. -/
theorem stepBlockAppendsSequence : Obligations.StepBlockAppendsSequence := by
  intro row col s hs sequence
  refine ⟨rfl, fun low high clow chigh ha => ?_, fun h => ?_, fun low high hcol => ?_,
    fun low high clow chigh k hk hrej => ?_⟩
  · rw [exec_psStepBlock_of_next hs (.inr ((colLegal_iff col).mpr ⟨clow, chigh⟩)),
      stepBlock_of_legal ((rowLegal_iff row).mpr ⟨low, high⟩), emitSeq_of_accepts (stepSeq row col) hs ha]
    rfl
  · have illegal := (Stepping.rowLegal_eq_false_iff row).mpr h
    rw [exec_psStepBlock_of_next hs (.inl illegal), stepBlock_of_illegal illegal]
    rfl
  · have refused : (rowLegal row && !colLegal col) = true := by
      simp [(rowLegal_iff row).mpr ⟨low, high⟩, (Stepping.colLegal_eq_false_iff col).mpr hcol]
    rw [Stepping.exec_psStepBlock, whenReady_of_ready hs, if_pos refused]
  · rw [exec_psStepBlock_of_next hs (.inr ((colLegal_iff col).mpr ⟨clow, chigh⟩)),
      stepBlock_of_legal ((rowLegal_iff row).mpr ⟨low, high⟩),
      AddressEncoder.emitSeq_of_rejects (stepSeq row col) hs hk hrej]
    rfl

/-! ### The block-size arithmetic -/

/-- Settles O40. -/
theorem blockSizeArithmetic : Obligations.BlockSizeArithmetic := by
  refine ⟨fun size => ⟨rfl, Nat.le_add_left 1 _, rfl⟩, fun q r hr => ?_, fun size h => ?_⟩
  · have quotient : (40 * q + r) / 40 = q := by omega
    simp only [lastLenOf, blockSizeOf, quotient]
    refine ⟨trivial, ?_, ?_, ?_, ?_, ?_⟩ <;> omega
  · simp only [lastLenOf, blockSizeOf]
    omega

/-- The last length is what 39 blocks leave of the payload, or nothing. -/
theorem lastLenOf_toNat_eq (size : Nat) : (lastLenOf size).toNat = size - 39 * blockSizeOf size := by
  rw [lastLenOf]
  omega

/-! ### The payload plan -/

/-- Data block `i` of the plan (R80). -/
def planEntry (size start i : Nat) : PlanEntry where
  address := start + i * blockSizeOf size
  first := i * blockSizeOf size
  length := if i = 39 then size - 39 * blockSizeOf size else blockSizeOf size
  endMarker := 0x22#8

/-- The 40 data blocks of the plan. -/
abbrev dataEntries (size start : Nat) : List PlanEntry :=
  (List.range 40).map (planEntry size start)

theorem progressPlan_eq (size start : Nat) :
    progressPlan size start = dataEntries size start ++ [⟨start, size, 0, 0x29#8⟩] := by
  have full : (List.range 39).map (planEntry size start) = (List.range 39).map fun i =>
      (⟨start + i * (size / 40 + 1), i * (size / 40 + 1), size / 40 + 1, 0x22#8⟩ : PlanEntry) := by
    refine List.map_congr_left fun i hi => ?_
    rw [planEntry, if_neg (Nat.ne_of_lt (List.mem_range.mp hi))]
    rfl
  rw [dataEntries, show 40 = 39 + 1 from rfl, List.range_succ, List.map_append, full, List.append_assoc]
  rfl

theorem progressPlan_take_40 (size start : Nat) : (progressPlan size start).take 40 = dataEntries size start := by
  rw [progressPlan_eq, List.take_left' (by rw [List.length_map, List.length_range])]

/-- The lengths of the data blocks before block `i`. -/
theorem sum_planEntry_lengths (size start : Nat) {i : Nat} (h : i ≤ 39) :
    (((List.range i).map (planEntry size start)).map PlanEntry.length).sum = i * blockSizeOf size := by
  have full : ((List.range i).map (planEntry size start)).map PlanEntry.length
      = List.replicate i (blockSizeOf size) := by
    rw [List.map_map, ← List.length_range (n := i), ← List.map_const', List.length_range]
    refine List.map_congr_left fun j hj => ?_
    have := List.mem_range.mp hj
    exact if_neg (by omega)
  rw [full, List.sum_replicate_nat]

theorem planEntry_address_le {a : Addr} {size : Nat} (h : splitAdmitted a size = true) {i : Nat} (hi : i ≤ 39) :
    (planEntry size a.toNat i).address ≤ 0xFFFF := by
  have fits := ((splitAdmitted_iff a size).mp h).2
  have := Nat.mul_le_mul_right (blockSizeOf size) hi
  simp only [planEntry]
  omega

/-- Settles O41. -/
theorem admittedSplitCoversPayload : Obligations.AdmittedSplitCoversPayload := by
  intro a size h
  obtain ⟨covers, fits⟩ := (splitAdmitted_iff a size).mp h
  have last := lastLenOf_toNat covers
  have count : (dataEntries size a.toNat).length = 40 := by rw [List.length_map, List.length_range]
  refine ⟨?_, by omega, fun i e he => ?_, ?_⟩
  · rw [progressPlan, List.map_append, List.map_map]
    simp only [Function.comp_def, List.map_const', List.length_range, List.map_cons, List.map_nil, lastLenOf_toNat_eq]
    rfl
  · rw [progressPlan_eq] at he ⊢
    rcases Nat.lt_or_ge i 40 with data | beyond
    · rw [List.getElem?_append_left (by rwa [count]), List.getElem?_map, List.getElem?_range data] at he
      obtain rfl := Option.some.inj he
      refine ⟨planEntry_address_le h (by omega), fun _ => ⟨?_, rfl, rfl⟩⟩
      rw [List.take_append_of_le_length (by omega), ← List.map_take, List.take_range, Nat.min_eq_left (by omega),
        sum_planEntry_lengths _ _ (by omega)]
      rfl
    · rw [List.getElem?_append_right (by rwa [count]), count] at he
      obtain rfl := List.mem_singleton.mp (List.mem_of_getElem? he)
      exact ⟨Nat.le_of_lt_succ a.isLt, fun hi => absurd hi (Nat.not_lt.mpr beyond)⟩
  · rw [progressPlan_eq, List.getElem?_append_right (Nat.le_of_eq count), count]
    rfl

/-! ### The loop of PS.SPLIT -/

/-- What turn `i` of the loop sends: data block `i` and the step for column `i + 1`. -/
def turnBytes (a : Addr) (bank : Bank) (size : Nat) (row : BitVec 5) (payload : List Byte) (i : Nat) : List Byte :=
  planBlock bank payload (planEntry size a.toNat i) ++ stepSeq row (BitVec.ofNat 6 (i + 1))

theorem zipIdx_map_range {α : Type} (g : Nat → α) (n : Nat) :
    ((List.range n).map g).zipIdx = (List.range n).map fun i => (g i, i) := by
  refine List.ext_getElem (by simp) fun i _ _ => ?_
  simp

theorem progressBytes_eq (a : Addr) (bank : Bank) (size : Nat) (row : BitVec 5) (payload : List Byte) :
    progressBytes a bank size row payload
      = startSeq row ++ (List.range' 0 40).flatMap (turnBytes a bank size row payload)
        ++ blockBytes a bank [] 0x29#8 := by
  rw [progressBytes, progressPlan_take_40, zipIdx_map_range, List.flatMap_map, ← List.range_eq_range']
  rfl

/-- How many payload bytes have been read before turn `i`. -/
def readBefore (size i : Nat) : Nat :=
  min (i * blockSizeOf size) size

section Loop

variable {a : Addr} {bank : Bank} {size : Nat} {row : BitVec 5}

theorem readBefore_eq (covers : 39 * blockSizeOf size ≤ size) {i : Nat} (hi : i ≤ 39) :
    readBefore size i = i * blockSizeOf size :=
  Nat.min_eq_left ((Nat.mul_le_mul_right _ hi).trans covers)

theorem readBefore_succ (covers : 39 * blockSizeOf size ≤ size) {i : Nat} (hi : i ≤ 39) :
    readBefore size (i + 1) = readBefore size i + (planEntry size a.toNat i).length := by
  rw [readBefore_eq covers hi]
  rcases Nat.lt_or_eq_of_le hi with more | rfl
  · rw [readBefore_eq covers more, Nat.succ_mul, planEntry, if_neg (Nat.ne_of_lt more)]
  · have whole : size ≤ (39 + 1) * blockSizeOf size := by
      rw [blockSizeOf]
      omega
    rw [readBefore, Nat.min_eq_right whole]
    simp only [planEntry, if_true]
    omega

theorem readBefore_forty (size : Nat) : readBefore size 40 = size := by
  rw [readBefore, Nat.min_eq_right]
  rw [blockSizeOf]
  omega

/-- The state of the loop before turn `i`, from the state `u` in which it was entered: what it has sent and read, and
the running address, which stays at data block 39 once that is reached. -/
def beforeTurn (a : Addr) (size i : Nat) (sent : List Byte) (packer : Nat × Nat) (blkIdx : Nat) (u : State) : State :=
  { advanced sent (readBefore size i) packer u with
    curAddr := BitVec.ofNat 16 (a.toNat + min i 39 * blockSizeOf size), blkIdx := blkIdx }

theorem beforeTurn_zero {u : State} (hu : u.curAddr = a) :
    beforeTurn a size 0 [] (u.bits, u.bitCounter) u.blkIdx u = u := by
  have none : readBefore size 0 = 0 := by rw [readBefore, Nat.zero_mul, Nat.zero_min]
  have first : BitVec.ofNat 16 (a.toNat + min 0 39 * blockSizeOf size) = u.curAddr := by
    rw [hu, Nat.zero_min, Nat.zero_mul, Nat.add_zero, BitVec.ofNat_toNat, BitVec.setWidth_eq]
  rw [beforeTurn, none, first, ← appended_eq_advanced, appended_nil]

/-- The address advance of the loop, left out after data block 39 (R79). -/
def advanceAddr (i : Nat) (s : State) : State :=
  if i = 39 then s else { s with curAddr := s.curAddr + BitVec.ofNat 16 s.blockSize }

theorem advanceAddr_eq {i : Nat} (hi : i ≤ 39) {s : State} (hB : s.blockSize = blockSizeOf size)
    (hc : s.curAddr = BitVec.ofNat 16 (a.toNat + min i 39 * blockSizeOf size)) :
    advanceAddr i s = { s with curAddr := BitVec.ofNat 16 (a.toNat + min (i + 1) 39 * blockSizeOf size) } := by
  rcases Nat.lt_or_eq_of_le hi with more | rfl
  · rw [advanceAddr, if_neg (Nat.ne_of_lt more), hc, hB, ← BitVec.ofNat_add, Nat.min_eq_left hi,
      Nat.min_eq_left more, Nat.succ_mul, Nat.add_assoc]
  · rw [advanceAddr, if_pos rfl, show min (39 + 1) 39 = min 39 39 from rfl, ← hc]

/-- Both branches of the turn in one form. -/
theorem dataBlock_eq {i : Nat} {s : State} (hB : s.blockSize = blockSizeOf size) :
    dataBlock bank (lastLenOf size).toNat row i s
      = andThen (writeBlock s.curAddr bank (planEntry size a.toNat i).length .endDataBlock { s with blkIdx := i })
          fun t => stepBlock row (BitVec.ofNat 6 (i + 1)) (advanceAddr i t) := by
  by_cases last : i = 39
  · subst last
    simp only [dataBlock, lastDataBlock, planEntry, advanceAddr, beq_self_eq_true, if_true, lastLenOf_toNat_eq]
  · have more : lastDataBlock i = false := beq_false_of_ne last
    simp only [dataBlock, more, Bool.false_eq_true, if_false, planEntry, advanceAddr, if_neg last, hB]

/-- One turn: the entry's block at the running address, then the step. -/
theorem dataBlock_writes (covers : 39 * blockSizeOf size ≤ size) (hrow : rowLegal row = true) {u : State}
    (hu : ready u) (hB : u.blockSize = blockSizeOf size) (h0 : u.rdPtr = 0) (h : sourceDelivers u 0 size) {i : Nat}
    (hi : i ≤ 39) (sent : List Byte) (packer : Nat × Nat) (idx : Nat) :
    ∃ packer', Writes (beforeTurn a size i sent packer idx u) (turnBytes a bank size row u.pay i)
      (beforeTurn a size (i + 1) (sent ++ turnBytes a bank size row u.pay i) packer' i u)
      (dataBlock bank (lastLenOf size).toNat row i (beforeTurn a size i sent packer idx u)) := by
  let e := planEntry size a.toNat i
  let s := beforeTurn a size i sent packer i u
  have position : s.rdPtr = e.first := by
    simp only [s, beforeTurn, advanced, h0, Nat.zero_add]
    exact readBefore_eq covers hi
  have delivers : sourceDelivers s s.rdPtr e.length := by
    have rest := sourceDelivers_rest (s := u) (t := s) (start := 0) (m := readBefore size i) (n := e.length) rfl rfl
      (sourceDelivers_mono h (by rw [← readBefore_succ covers hi]; exact Nat.min_le_right _ _))
    rw [position]
    rwa [Nat.zero_add, readBefore_eq covers hi] at rest
  have address : s.curAddr = BitVec.ofNat 16 e.address := by
    simp only [s, beforeTurn, e, planEntry, Nat.min_eq_left hi]
  let packer' := (staleBits (payloadFrom s e.first e.length), 0)
  have block : Writes s (planBlock bank u.pay e) (advanced (planBlock bank u.pay e) e.length packer' s)
      (writeBlock s.curAddr bank e.length .endDataBlock s) := by
    have writes := writeBlock_writes (s := s) hu s.curAddr bank .endDataBlock delivers
    rw [address, position] at writes
    rw [address]
    exact writes
  let stepped := advanceAddr i (advanced (planBlock bank u.pay e) e.length packer' s)
  have moved : stepped = { advanced (planBlock bank u.pay e) e.length packer' s with
      curAddr := BitVec.ofNat 16 (a.toNat + min (i + 1) 39 * blockSizeOf size) } := advanceAddr_eq hi hB rfl
  have ends : appended (stepSeq row (BitVec.ofNat 6 (i + 1))) stepped
      = beforeTurn a size (i + 1) (sent ++ turnBytes a bank size row u.pay i) packer' i u := by
    rw [moved]
    simp [beforeTurn, advanced, appended, readBefore_succ (a := a) covers hi, turnBytes, List.drop_drop, s, e,
      Nat.add_assoc]
  refine ⟨packer', ?_⟩
  rw [dataBlock_eq (a := a) (s := beforeTurn a size i sent packer idx u) hB, ← ends]
  refine (block.begun_before (s := beforeTurn a size i sent packer idx u) ⟨rfl, rfl, rfl, rfl⟩).andThen ?_
  rw [stepBlock_of_legal hrow]
  exact (Writes.emitSeq (s := stepped) _ (by rw [moved]; exact hu)).begun_before
    (by rw [moved]; exact ⟨rfl, rfl, rfl, rfl⟩)

/-- The turns from `i` on. -/
theorem dataBlocks_writes (covers : 39 * blockSizeOf size ≤ size) (hrow : rowLegal row = true) {u : State}
    (hu : ready u) (hB : u.blockSize = blockSizeOf size) (h0 : u.rdPtr = 0) (h : sourceDelivers u 0 size)
    (count i : Nat) (hi : i + count = 40) (sent : List Byte) (packer : Nat × Nat) (idx : Nat) :
    let rest := (List.range' i count).flatMap (turnBytes a bank size row u.pay)
    ∃ packer' idx', Writes (beforeTurn a size i sent packer idx u) rest
      (beforeTurn a size 40 (sent ++ rest) packer' idx' u)
      (dataBlocks bank (lastLenOf size).toNat row count i (beforeTurn a size i sent packer idx u)) := by
  induction count generalizing i sent packer idx with
  | zero =>
    obtain rfl : i = 40 := hi
    refine ⟨packer, idx, ?_⟩
    rw [List.range'_zero, List.flatMap_nil, List.append_nil]
    exact .silent hu ⟨rfl, rfl, rfl, rfl⟩
  | succ count ih =>
    obtain ⟨packer₁, turn⟩ :=
      dataBlock_writes (a := a) (bank := bank) covers hrow hu hB h0 h (i := i) (by omega) sent packer idx
    obtain ⟨packer₂, idx₂, rest⟩ := ih (i + 1) (by omega) (sent ++ turnBytes a bank size row u.pay i) packer₁ i
    rw [List.append_assoc] at rest
    exact ⟨packer₂, idx₂, turn.andThen rest⟩

end Loop

/-! ### PS.SPLIT -/

/-- The body of an admitted PS.SPLIT sends the whole 41-block form (R79). -/
theorem splitBody_writes {a : Addr} {bank : Bank} {size : Nat} {row : BitVec 5} (hrow : rowLegal row = true)
    (adm : splitAdmitted a size = true) {s : State} (hs : ready s) (hB : s.blockSize = blockSizeOf size)
    (h0 : s.rdPtr = 0) (h : sourceDelivers s 0 size) :
    let bytes := progressBytes a bank size row s.pay
    Writes s bytes
      { advanced bytes size (0, 0) s with
        curAddr := BitVec.ofNat 16 (a.toNat + 39 * blockSizeOf size), blkIdx := 40 }
      (splitBody a bank size row s) := by
  intro bytes
  have covers := ((splitAdmitted_iff a size).mp adm).1
  let u := appended (startSeq row) { s with curAddr := a }
  let turns := (List.range' 0 40).flatMap (turnBytes a bank size row s.pay)
  have start : Writes s (startSeq row) u (startBlock row { s with curAddr := a }) := by
    rw [startBlock_of_legal hrow]
    exact (Writes.emitSeq (s := { s with curAddr := a }) (startSeq row) hs).begun_before ⟨rfl, rfl, rfl, rfl⟩
  obtain ⟨packer, idx, loop⟩ := dataBlocks_writes (a := a) (bank := bank) covers hrow (u := u) hs hB h0 h 40 0 rfl []
    (u.bits, u.bitCounter) u.blkIdx
  rw [beforeTurn_zero (a := a) (u := u) rfl, List.nil_append] at loop
  let done := { beforeTurn a size 40 turns packer idx u with blkIdx := 40 }
  have atEnd : done.rdPtr = size := by
    simp only [done, u, beforeTurn, advanced, appended, h0, Nat.zero_add, readBefore_forty]
  have nothing : sourceDelivers done done.rdPtr 0 :=
    ⟨fun _ hm => (List.not_mem_nil hm).elim, by rw [atEnd]; exact Nat.le_of_add_left_le h.2⟩
  have terminator : Writes (beforeTurn a size 40 turns packer idx u) (blockBytes a bank [] 0x29#8)
      (advanced (blockBytes a bank [] 0x29#8) 0 (0, 0) done) (writeBlock a bank 0 .endProgram done) :=
    (writeBlock_writes (s := done) hs a bank .endProgram nothing).begun_before ⟨rfl, rfl, rfl, rfl⟩
  refine (start.andThen (g := fun t => andThen (dataBlocks bank (lastLenOf size).toNat row 40 0 t) fun t =>
    writeBlock a bank 0 .endProgram { t with blkIdx := 40 }) (loop.andThen terminator)).of_eq ?_ ?_
  · rw [← List.append_assoc]
    exact (progressBytes_eq a bank size row s.pay).symm
  · have form : bytes = startSeq row ++ turns ++ blockBytes a bank [] 0x29#8 := progressBytes_eq a bank size row s.pay
    rw [form]
    simp [done, u, beforeTurn, advanced, appended, readBefore_forty, List.drop_drop, Nat.add_assoc]

theorem split_of_illegal_row (standalone : Bool) {s : State} (h : rowLegal s.row = false) :
    split standalone s = raise .argumentError s := by
  rw [split, h, if_neg Bool.false_ne_true]

theorem split_of_not_admitted (standalone : Bool) {s : State} (hrow : rowLegal s.row = true)
    (h : splitAdmitted s.startAddr s.size = false) :
    split standalone s = raise .argumentError { s with blockSize := blockSizeOf s.size } := by
  rw [split, if_pos hrow]
  simp only [h, Bool.false_eq_true, if_false]

theorem split_of_admitted (standalone : Bool) {s : State} (hrow : rowLegal s.row = true)
    (h : splitAdmitted s.startAddr s.size = true) :
    split standalone s = splitBody s.startAddr s.bank s.size s.row
      { s with blockSize := blockSizeOf s.size, rdPtr := if standalone then 0 else s.rdPtr } := by
  rw [split, if_pos hrow]
  simp only [h, if_true]
  cases standalone <;> rfl

/-- What an admitted PS.SPLIT on the loaded operands ends in. -/
def afterSplit (s : State) : State :=
  { appended (progressBytes s.startAddr s.bank s.size s.row s.pay) s with
    curAddr := BitVec.ofNat 16 (s.startAddr.toNat + 39 * blockSizeOf s.size), blockSize := blockSizeOf s.size,
    blkIdx := 40, rdPtr := s.size, bits := 0, bitCounter := 0, sourceAnswers := s.sourceAnswers.drop s.size }

theorem split_writes {standalone : Bool} {s : State} (hs : ready s) (hrow : rowLegal s.row = true)
    (adm : splitAdmitted s.startAddr s.size = true) (h0 : standalone = true ∨ s.rdPtr = 0)
    (h : sourceDelivers s 0 s.size) :
    Writes s (progressBytes s.startAddr s.bank s.size s.row s.pay) (afterSplit s) (split standalone s) := by
  let t := { s with blockSize := blockSizeOf s.size, rdPtr := if standalone then 0 else s.rdPtr }
  have position : t.rdPtr = 0 := by
    rcases h0 with rfl | h0
    · rfl
    · simp [t, h0]
  rw [split_of_admitted standalone hrow adm]
  have body := (splitBody_writes (bank := s.bank) hrow adm (s := t) hs rfl position h).begun_before (s := s)
    ⟨rfl, rfl, rfl, rfl⟩
  refine body.of_eq rfl ?_
  simp only [advanced, position, Nat.zero_add]
  rfl

theorem exec_psSplit_of_ready {s : State} (hs : ready s) (a : Addr) (bank : Bank) (size : Nat) (row : BitVec 5) :
    exec (.psSplit a bank size row) s = .next (split true (loadSplitOperands a bank size row s)) := by
  rw [Stepping.exec_psSplit, whenReady_of_ready hs]

/-- What a standalone PS.SPLIT sends. -/
theorem exec_psSplit_writes {s : State} (hs : ready s) {a : Addr} (bank : Bank) {size : Nat} {row : BitVec 5}
    (low : 1 ≤ row.toNat) (high : row.toNat ≤ 24) (covers : 39 * (size / 40 + 1) ≤ size)
    (fits : a.toNat + 39 * (size / 40 + 1) ≤ 0xFFFF) (h : sourceDelivers s 0 size) :
    ∃ r, exec (.psSplit a bank size row) s = .next r ∧
      Writes s (progressBytes a bank size row s.pay) (afterSplit (loadSplitOperands a bank size row s)) r :=
  ⟨_, exec_psSplit_of_ready hs a bank size row,
    (split_writes (s := loadSplitOperands a bank size row s) hs ((rowLegal_iff row).mpr ⟨low, high⟩)
      ((splitAdmitted_iff a size).mpr ⟨covers, fits⟩) (.inl rfl) h).begun_before ⟨rfl, rfl, rfl, rfl⟩⟩

/-- Settles O42. -/
theorem splitAppendsPlan : Obligations.SplitAppendsPlan := by
  intro a bank size row s hs low high covers fits ha h
  obtain ⟨r, e, writes⟩ := exec_psSplit_writes hs bank low high covers fits h
  rw [e, writes.completes ha]
  rfl

/-- The four ways a split is turned away (R78, R87). -/
theorem split_rejection_cases {a : Addr} {size : Nat} {row : BitVec 5}
    (h : row.toNat = 0 ∨ 25 ≤ row.toNat ∨ size < 39 * (size / 40 + 1) ∨ 0xFFFF < a.toNat + 39 * (size / 40 + 1)) :
    rowLegal row = false ∨ rowLegal row = true ∧ splitAdmitted a size = false := by
  cases hrow : rowLegal row with
  | false => exact .inl rfl
  | true =>
    refine .inr ⟨rfl, ?_⟩
    obtain ⟨low, high⟩ := (rowLegal_iff row).mp hrow
    rw [← Bool.not_eq_true, splitAdmitted_iff, blockSizeOf]
    omega

/-- Settles O43: each cause raises on the loaded operands, before the body. -/
theorem splitRejectionRaisesArgumentError : Obligations.SplitRejectionRaisesArgumentError := by
  intro a bank size row s hs h
  refine ⟨_, exec_psSplit_of_ready hs a bank size row, ?_⟩
  rcases split_rejection_cases h with hrow | ⟨hrow, hadm⟩
  · rw [split_of_illegal_row true (s := loadSplitOperands a bank size row s) hrow]
    exact ⟨rfl, rfl, rfl, rfl, rfl, rfl⟩
  · rw [split_of_not_admitted true (s := loadSplitOperands a bank size row s) hrow hadm]
    exact ⟨rfl, rfl, rfl, rfl, rfl, rfl⟩

/-! ### The length of the output -/

theorem turnBytes_length {size : Nat} {payload : List Byte} (covers : 39 * blockSizeOf size ≤ size)
    (holds : size ≤ payload.length) (a : Addr) (bank : Bank) (row : BitVec 5) {i : Nat} (hi : i ≤ 39) :
    (turnBytes a bank size row payload i).length = 12 + symbolCount (planEntry size a.toNat i).length := by
  have inside := readBefore_succ (a := a) covers hi
  rw [readBefore_eq covers hi] at inside
  have most : readBefore size (i + 1) ≤ size := Nat.min_le_right _ _
  have piece : ((payload.drop (planEntry size a.toNat i).first).take (planEntry size a.toNat i).length).length
      = (planEntry size a.toNat i).length := by
    rw [List.length_take, List.length_drop, show (planEntry size a.toNat i).first = i * blockSizeOf size from rfl]
    omega
  rw [turnBytes, List.length_append, planBlock, blockBytes_length, piece]
  simp only [stepSeq, List.length_cons, List.length_nil]
  omega

theorem progressBytes_length {size : Nat} {payload : List Byte} (covers : 39 * blockSizeOf size ≤ size)
    (holds : size ≤ payload.length) (a : Addr) (bank : Bank) (row : BitVec 5) :
    (progressBytes a bank size row payload).length
      = 10 + (39 * (12 + symbolCount (blockSizeOf size)) + (12 + symbolCount (size - 39 * blockSizeOf size))) + 6 := by
  have full : (List.range' 0 39).map (fun i => (turnBytes a bank size row payload i).length)
      = List.replicate 39 (12 + symbolCount (blockSizeOf size)) := by
    rw [← List.length_range' (s := 0) (n := 39) (step := 1), ← List.map_const', List.length_range']
    refine List.map_congr_left fun i hi => ?_
    obtain ⟨-, upper⟩ := List.mem_range'_1.mp hi
    rw [turnBytes_length covers holds a bank row (by omega), planEntry, if_neg (by omega)]
  rw [progressBytes_eq, List.length_append, List.length_append, List.length_flatMap, blockBytes_length,
    show 40 = 39 + 1 from rfl, List.range'_concat, List.map_append, List.sum_append, full, List.sum_replicate_nat,
    List.map_singleton, List.sum_singleton, turnBytes_length covers holds a bank row (by omega), planEntry,
    if_pos (by omega)]
  rfl

/-- Settles O44. -/
theorem splitOutputLength : Obligations.SplitOutputLength := by
  intro a bank size n row s hs low high covers fits hn ha h
  obtain ⟨r, e, writes⟩ := exec_psSplit_writes hs bank low high covers fits h
  have length : (progressBytes a bank size row s.pay).length = n := by
    have holds := h.2
    rw [progressBytes_length covers (by omega), hn, symbolCount, symbolCount, blockSizeOf]
    omega
  obtain rfl := writes.completes (by rwa [length])
  exact ⟨_, e, writes.ready, by rw [writes.out, List.length_append, length]⟩

end Sys2Proof.Splitter
end

section
/-! The Converter operation (R82, R83): what it sends in either mode, its rejections, and its expansions. -/

namespace Sys2Proof.Conversion

open Sys2Proof Sys2Proof.Machine Sys2Proof.Safety Sys2Proof.Reference Sys2Proof.Streams Sys2Proof.Blocks
open Sys2Proof.Splitter

/-! ### The operation by its cases -/

theorem exec_cvConvert_of_ready {s : State} (hs : ready s) (a : Addr) (bank : Bank) (size : Nat) (valid : Bool)
    (row : BitVec 5) (preload : List Byte) :
    exec (.cvConvert a bank size valid row preload) s
      = .next (convert preload (loadConvertOperands a bank size valid row s)) := by
  rw [Stepping.exec_cvConvert, whenReady_of_ready hs]

theorem convert_of_admitted (preload : List Byte) {s : State} (h : convertAdmitted s = true) :
    convert preload s = convertBody preload s :=
  if_pos h

theorem convert_of_not_admitted (preload : List Byte) {s : State} (h : convertAdmitted s = false) :
    convert preload s = raise .argumentError s := by
  rw [convert, h, if_neg Bool.false_ne_true]

theorem convertAdmitted_of_single {s : State} (h : s.rowValid = false) : convertAdmitted s = true := by
  rw [convertAdmitted, h]
  rfl

theorem convertAdmitted_of_progress {s : State} (h : s.rowValid = true) :
    convertAdmitted s = (rowLegal s.row && splitAdmitted s.startAddr s.size) := by
  rw [convertAdmitted, h]
  rfl

/-! ### What a conversion sends -/

theorem preload_writes {s : State} (hs : ready s) (preload : List Byte) :
    Writes s preload (appended preload { s with rdPtr := 0 }) (emitSeq preload { s with rdPtr := 0 }) :=
  (Writes.emitSeq (s := { s with rdPtr := 0 }) preload hs).begun_before ⟨rfl, rfl, rfl, rfl⟩

/-- Single-block mode: the preload, then one block with the whole payload. -/
theorem convert_single_writes {s : State} (hs : ready s) (hv : s.rowValid = false) (h : sourceDelivers s 0 s.size)
    (preload : List Byte) :
    let bytes := preload ++ blockBytes s.startAddr s.bank (s.pay.take s.size) 0x29#8
    Writes s bytes (advanced bytes s.size (staleBits (s.pay.take s.size), 0) { s with rdPtr := 0 })
      (convert preload s) := by
  intro bytes
  let t := appended preload { s with rdPtr := 0 }
  have block := writeBlock_writes (s := t) hs s.startAddr s.bank .endProgram h
  dsimp only at block
  rw [show t = advanced preload 0 (s.bits, s.bitCounter) { s with rdPtr := 0 } from rfl, advanced_advanced,
    Nat.zero_add] at block
  rw [convert_of_admitted preload (convertAdmitted_of_single hv)]
  refine (preload_writes hs preload).andThen ?_
  rw [show (appended preload { s with rdPtr := 0 }).rowValid = false from hv, if_neg Bool.false_ne_true]
  exact block

/-- Progress mode: the preload, then the 41-block form. -/
theorem convert_progress_writes {s : State} (hs : ready s) (hv : s.rowValid = true) (hrow : rowLegal s.row = true)
    (adm : splitAdmitted s.startAddr s.size = true) (h : sourceDelivers s 0 s.size) (preload : List Byte) :
    Writes s (preload ++ progressBytes s.startAddr s.bank s.size s.row s.pay)
      (afterSplit (appended preload { s with rdPtr := 0 })) (convert preload s) := by
  have admitted : convertAdmitted s = true := by rw [convertAdmitted_of_progress hv, hrow, adm]; rfl
  rw [convert_of_admitted preload admitted]
  refine (preload_writes hs preload).andThen ?_
  rw [show (appended preload { s with rdPtr := 0 }).rowValid = true from hv, if_pos rfl]
  exact split_writes (standalone := false) (s := appended preload { s with rdPtr := 0 }) hs hrow adm (.inr rfl) h

/-- Settles O45. -/
theorem convertSingleBlock : Obligations.ConvertSingleBlock := by
  intro a bank size row preload s hs ha h
  have writes := convert_single_writes (s := loadConvertOperands a bank size false row s) hs rfl h preload
  have length : (preload ++ blockBytes a bank (s.pay.take size) 0x29#8).length
      = preload.length + (6 + symbolCount size) := by
    rw [List.length_append, blockBytes_length, take_length_of_delivers h]
  refine ⟨staleBits (s.pay.take size), ?_⟩
  rw [exec_cvConvert_of_ready hs]
  refine congrArg _ ((writes.completes ?_).trans ?_)
  · exact length ▸ ha
  · simp [advanced, appended, loadConvertOperands]

/-- Settles O46. -/
theorem convertProgressMode : Obligations.ConvertProgressMode := by
  intro a bank size row preload s hs low high covers fits ha h
  let loaded := loadConvertOperands a bank size true row s
  have writes := convert_progress_writes (s := loaded) hs rfl ((rowLegal_iff row).mpr ⟨low, high⟩)
    ((splitAdmitted_iff a size).mpr ⟨covers, fits⟩) h preload
  refine ⟨afterSplit (appended preload { loaded with rdPtr := 0 }), ?_, ⟨hs, rfl, rfl⟩, ?_⟩
  · rw [exec_cvConvert_of_ready hs]
    exact congrArg _ (writes.completes ha)
  · simp [afterSplit, loaded, appended, loadConvertOperands, convertBytes, blockSizeOf, List.drop_drop]

/-- Every Emit of an admitted conversion, in either mode. -/
theorem exec_cvConvert_writes {s : State} (hs : ready s) {a : Addr} (bank : Bank) {size : Nat} {valid : Bool}
    {row : BitVec 5} (preload : List Byte)
    (adm : valid = true → 1 ≤ row.toNat ∧ row.toNat ≤ 24 ∧ 39 * (size / 40 + 1) ≤ size ∧
      a.toNat + 39 * (size / 40 + 1) ≤ 0xFFFF) (h : sourceDelivers s 0 size) :
    ∃ t r, exec (.cvConvert a bank size valid row preload) s = .next r ∧
      Writes s (convertBytes a bank size valid row preload s.pay) t r := by
  let loaded := loadConvertOperands a bank size valid row s
  have run : exec (.cvConvert a bank size valid row preload) s = .next (convert preload loaded) :=
    exec_cvConvert_of_ready hs a bank size valid row preload
  cases valid with
  | false =>
    have writes := convert_single_writes (s := loaded) hs rfl h preload
    exact ⟨_, _, run, writes.begun_before (s := s) ⟨rfl, rfl, rfl, rfl⟩⟩
  | true =>
    obtain ⟨low, high, covers, fits⟩ := adm rfl
    have writes := convert_progress_writes (s := loaded) hs rfl ((rowLegal_iff row).mpr ⟨low, high⟩)
      ((splitAdmitted_iff a size).mpr ⟨covers, fits⟩) h preload
    exact ⟨_, _, run, writes.begun_before (s := s) ⟨rfl, rfl, rfl, rfl⟩⟩

/-- Settles O48. -/
theorem convertSinkFailureKeepsPrefix : Obligations.ConvertSinkFailureKeepsPrefix := by
  intro a bank size valid row preload s k hs adm hk h bytes
  obtain ⟨t, r, e, writes⟩ := exec_cvConvert_writes hs bank preload adm h
  refine ⟨fun ⟨before, failed⟩ => ?_, fun ⟨before, reset⟩ => ?_⟩
  · have stopped := writes.stops k .failed hk before failed nofun
    exact ⟨r, e, stopped.fault, stopped.resetRequest, stopped.pay, stopped.out⟩
  · have stopped := writes.stops k .reset hk before reset nofun
    exact ⟨r, hardwareReset r, e, stopped.fault, stopped.resetRequest, stopped.pay, stopped.out,
      Stepping.step_of_resetRequest stopped.resetRequest, rfl, rfl, rfl, rfl, ⟨rfl, rfl⟩, stopped.commands⟩

/-! ### Rejections -/

/-- Settles O47. -/
theorem convertRejectionRaisesArgumentError : Obligations.ConvertRejectionRaisesArgumentError := by
  intro a bank size row preload s hs h
  let loaded := loadConvertOperands a bank size true row s
  have rejected : convertAdmitted loaded = false := by
    rw [convertAdmitted_of_progress rfl]
    rcases split_rejection_cases h with hrow | ⟨-, hadm⟩
    · exact Bool.and_eq_false_iff.mpr (.inl hrow)
    · exact Bool.and_eq_false_iff.mpr (.inr hadm)
  refine ⟨_, exec_cvConvert_of_ready hs a bank size true row preload, ?_⟩
  rw [convert_of_not_admitted preload rejected]
  exact ⟨rfl, rfl, rfl, rfl, rfl, rfl⟩

/-! ### Expansions -/

theorem convert_nil_of_admitted {s : State} (hs : ready s) (h : convertAdmitted s = true) :
    convert [] s = if s.rowValid then split false { s with rdPtr := 0 }
      else writeBlock s.startAddr s.bank s.size .endProgram { s with rdPtr := 0 } := by
  rw [convert_of_admitted [] h, convertBody, emitSeq]
  exact andThen_of_ready (s := { s with rdPtr := 0 }) hs _

/-- Settles O50. -/
theorem convertIsItsExpansion : Obligations.ConvertIsItsExpansion := by
  intro a bank size row s hs
  refine ⟨?_, fun low high covers fits => ?_⟩
  · let t := { s with rowValid := false, row := row }
    obtain ⟨marker, byte, e⟩ := exec_bwWriteBlock_of_marker (s := t) hs a bank size (em := 0x29#8) (by decide)
    obtain rfl : marker = .endProgram := by
      revert byte
      cases marker <;> decide
    rw [exec_cvConvert_of_ready hs, convert_nil_of_admitted (s := loadConvertOperands a bank size false row s) hs rfl]
    exact e.symm
  · have hrow := (rowLegal_iff row).mpr ⟨low, high⟩
    have adm := (splitAdmitted_iff a size).mpr ⟨covers, fits⟩
    let loaded := loadConvertOperands a bank size true row s
    have admitted : convertAdmitted loaded = true := by
      rw [convertAdmitted_of_progress rfl]
      exact Bool.and_eq_true_iff.mpr ⟨hrow, adm⟩
    let t := { s with rowValid := true }
    rw [exec_cvConvert_of_ready hs, convert_nil_of_admitted (s := loaded) hs admitted,
      exec_psSplit_of_ready (s := t) hs]
    refine congrArg _ ?_
    rw [split_of_admitted true (s := loadSplitOperands a bank size row t) hrow adm]
    exact split_of_admitted false (s := { loaded with rdPtr := 0 }) hrow adm

end Sys2Proof.Conversion
end

section
/-! Invariants of the machine: the packer's bound under the driver protocol (R12, R14, R100 to R103) and the domains of
the working registers (R10, R19, R20). -/

namespace Sys2Proof.Invariants

open Sys2Proof Sys2Proof.Machine Sys2Proof.Safety Sys2Proof.Reference Sys2Proof.Stepping Sys2Proof.BitPacker

/-! ### What blocks keep, composites keep -/

section Composites

variable {P : State → Prop}

/-- `P` is kept by a whole block, whatever the streams answer. -/
abbrev KeptByBlock (P : State → Prop) : Prop :=
  ∀ (a : Addr) (bank : Bank) (len : Nat) (em : EndMarker) (s : State), P s → P (writeBlock a bank len em s)

theorem dataBlock_keeps_of_block (he : KeptByEmit P) (hw : KeptByBlock P) (hs : KeptBySplitter P) (bank : Bank)
    (lastLen : Nat) (row : BitVec 5) (i : Nat) {s : State} (h : P s) : P (dataBlock bank lastLen row i s) := by
  obtain ⟨hcur, -, hidx, -, hx⟩ := hs
  unfold dataBlock
  dsimp only
  split
  · exact andThen_keeps (hw _ _ _ _ _ (hidx i s h)) fun _ h => stepBlock_keeps he hx _ _ h
  · exact andThen_keeps (hw _ _ _ _ _ (hidx i s h)) fun _ h => stepBlock_keeps he hx _ _ (hcur _ _ h)

theorem dataBlocks_keeps_of_block (he : KeptByEmit P) (hw : KeptByBlock P) (hs : KeptBySplitter P) (bank : Bank)
    (lastLen : Nat) (row : BitVec 5) (count i : Nat) {s : State} (h : P s) :
    P (dataBlocks bank lastLen row count i s) := by
  induction count generalizing i s with
  | zero => exact h
  | succ count ih => exact andThen_keeps (dataBlock_keeps_of_block he hw hs _ _ _ _ h) fun _ h => ih _ h

theorem splitBody_keeps_of_block (he : KeptByEmit P) (hw : KeptByBlock P) (hs : KeptBySplitter P) (a : Addr)
    (bank : Bank) (size : Nat) (row : BitVec 5) {s : State} (h : P s) : P (splitBody a bank size row s) := by
  have ⟨hcur, _, hidx, _, hx⟩ := hs
  exact andThen_keeps (startBlock_keeps he hx row (hcur _ _ h)) fun _ h =>
    andThen_keeps (dataBlocks_keeps_of_block he hw hs _ _ _ _ _ h) fun _ h => hw _ _ _ _ _ (hidx _ _ h)

theorem split_keeps_of_block (he : KeptByEmit P) (hw : KeptByBlock P) (hs : KeptBySplitter P) (standalone : Bool)
    {s : State} (h : P s) : P (split standalone s) := by
  have ⟨_, hsize, _, hptr, hx⟩ := hs
  have sized : P { s with blockSize := blockSizeOf s.size } := hsize _ s h
  cases hrow : rowLegal s.row with
  | false =>
    rw [Splitter.split_of_illegal_row standalone hrow]
    exact hx s h
  | true =>
    cases hadm : splitAdmitted s.startAddr s.size with
    | false =>
      rw [Splitter.split_of_not_admitted standalone hrow hadm]
      exact hx _ sized
    | true =>
      rw [Splitter.split_of_admitted standalone hrow hadm]
      refine splitBody_keeps_of_block he hw hs _ _ _ _ ?_
      cases standalone with
      | false => exact sized
      | true => exact hptr { s with blockSize := blockSizeOf s.size } sized

theorem convert_keeps_of_block (he : KeptByEmit P) (hw : KeptByBlock P) (hs : KeptBySplitter P) (preload : List Byte)
    {s : State} (h : P s) : P (convert preload s) := by
  have ⟨_, _, _, hptr, hx⟩ := hs
  unfold convert
  split
  · refine andThen_keeps (emitSeq_keeps he _ (hptr _ h)) fun _ h => ?_
    split
    · exact split_keeps_of_block he hw hs false h
    · exact hw _ _ _ _ _ h
  · exact hx _ h

end Composites

/-! ### The packer's bound -/

theorem packerBounded_keptByEmit : KeptByEmit packerBounded := by
  intro b s h
  rcases emit_cases b s with ⟨-, e⟩ | ⟨rest, -, e⟩ | ⟨rest, -, e⟩ <;> rw [e] <;> exact h

theorem extractOne_packerBounded {s : State} (h : packerBounded s) : packerBounded (extractOne s) :=
  packerBounded_keptByEmit _ _
    ((PackerSession.packerBounded_iff _).mpr (PackerSession.inBound_extract ((PackerSession.packerBounded_iff s).mp h)))

theorem extractWhile_packerBounded {go : Nat → Bool} (fuel : Nat) {s : State} (h : packerBounded s) :
    packerBounded (extractWhile go fuel s) := by
  induction fuel generalizing s with
  | zero => exact h
  | succ fuel ih =>
    rw [extractWhile]
    split
    · exact andThen_keeps (extractOne_packerBounded h) fun _ h => ih h
    · exact h

theorem drain_packerBounded {s : State} (h : packerBounded s) : packerBounded (drain s) := by
  rw [drain, drainLoop_eq_extractWhile]
  exact extractWhile_packerBounded _ h

theorem flush_packerBounded {s : State} (h : packerBounded s) : packerBounded (flush s) := by
  rw [flush, flushLoop_eq_extractWhile]
  exact extractWhile_packerBounded _ h

/-- A loop that nothing has stopped ran until its condition failed. -/
theorem go_extractWhile_of_ready {go : Nat → Bool} (stop : go 0 = false) {fuel : Nat} {s : State}
    (hf : s.bitCounter ≤ fuel) (hr : ready (extractWhile go fuel s)) :
    go (extractWhile go fuel s).bitCounter = false := by
  induction fuel generalizing s with
  | zero =>
    rw [extractWhile, Nat.le_zero.mp hf]
    exact stop
  | succ fuel ih =>
    cases hgo : go s.bitCounter with
    | false => rwa [extractWhile_of_stop hgo]
    | true =>
      rw [extractWhile_of_go hgo] at hr ⊢
      rcases andThen_cases (extractOne s) (extractWhile go fuel) with ⟨-, e⟩ | ⟨stopped, e⟩
      · rw [e] at hr ⊢
        exact ih (by rw [extractOne_bitCounter]; omega) hr
      · rw [e] at hr
        exact absurd hr stopped

theorem drain_counter_le_of_ready {s : State} (hr : ready (drain s)) : (drain s).bitCounter ≤ 5 := by
  rw [drain, drainLoop_eq_extractWhile] at hr ⊢
  exact Nat.not_lt.mp (of_decide_eq_false (go_extractWhile_of_ready (go := symbolReady) rfl (le_refl _) hr))

theorem packerFeed_packerBounded {s : State} (b : Byte) (h : packerBounded s) (h5 : s.bitCounter ≤ 5) :
    packerBounded (packerFeed b s) :=
  (PackerSession.packerBounded_iff _).mpr
    (PackerSession.inBound_feed b h5 ((PackerSession.packerBounded_iff s).mp h))

/-- A turn of the payload loop keeps the bound, and leaves no complete symbol pending unless it was stopped. -/
theorem packByte_packerBounded {s : State} (h : packerBounded s) (h5 : s.bitCounter ≤ 5) :
    packerBounded (packByte s) ∧ (ready (packByte s) → (packByte s).bitCounter ≤ 5) := by
  unfold packByte
  rcases readByteThen_cases (fun byte s => drain (packerFeed byte s)) s with ⟨b, -, -, e⟩ | ⟨-, e⟩ | ⟨-, e⟩ <;> rw [e]
  · exact ⟨drain_packerBounded (packerFeed_packerBounded b h h5), drain_counter_le_of_ready⟩
  · exact ⟨h, fun _ => h5⟩
  · exact ⟨h, fun _ => h5⟩

theorem packPayload_packerBounded (len : Nat) {s : State} (h : packerBounded s) (h5 : s.bitCounter ≤ 5) :
    packerBounded (packPayload len s) := by
  induction len generalizing s with
  | zero => exact h
  | succ len ih =>
    obtain ⟨bounded, few⟩ := packByte_packerBounded h h5
    exact andThen_keeps bounded fun hr h => ih h (few hr)

theorem packerBounded_keptByBlock : KeptByBlock packerBounded := fun _ _ len _ _ h =>
  andThen_keeps (emitSeq_keeps packerBounded_keptByEmit _ h) fun _ h =>
  andThen_keeps (emitSeq_keeps packerBounded_keptByEmit _ h) fun _ _ =>
  andThen_keeps (packPayload_packerBounded len (.inl ⟨rfl, Nat.zero_le _⟩) (Nat.zero_le 5)) fun _ h =>
  andThen_keeps (flush_packerBounded h) fun _ h => packerBounded_keptByEmit _ _ h

theorem packerBounded_keptBySplitter : KeptBySplitter packerBounded :=
  ⟨fun _ _ h => h, fun _ _ h => h, fun _ _ h => h, fun _ h => h, fun _ h => h⟩

theorem exec_packerBounded {i : Instr} {session : Session} {s : State} (h : packerBounded s)
    (adm : admitted session s i = true) : NextSatisfies packerBounded (exec i s) := by
  cases i with
  | pkReset =>
    rw [exec_pkReset]
    exact nextSatisfies_whenReady h fun _ => nextSatisfies_next (.inl ⟨rfl, Nat.zero_le _⟩)
  | pkFeed b =>
    have few : s.bitCounter ≤ 5 := by
      simp only [admitted, Bool.and_eq_true, decide_eq_true_eq] at adm
      exact adm.2
    rw [exec_pkFeed]
    exact nextSatisfies_whenReady h fun _ => nextSatisfies_next (packerFeed_packerBounded b h few)
  | pkExtract =>
    rw [exec_pkExtract]
    refine nextSatisfies_whenReady h fun _ => ?_
    split
    · exact nextSatisfies_next (extractOne_packerBounded h)
    · exact nextSatisfies_refused _ _
  | pkDrain =>
    rw [exec_pkDrain]
    exact nextSatisfies_next (andThen_keeps h fun _ h => drain_packerBounded h)
  | pkFlush =>
    rw [exec_pkFlush]
    exact nextSatisfies_next (andThen_keeps h fun _ h => flush_packerBounded h)
  | bwWriteBlock a bank len em =>
    rw [exec_bwWriteBlock]
    refine nextSatisfies_whenReady h fun _ => ?_
    split
    · exact nextSatisfies_refused _ _
    · exact nextSatisfies_next (packerBounded_keptByBlock _ _ _ _ _ h)
  | psSplit a bank size row =>
    rw [exec_psSplit]
    exact nextSatisfies_whenReady h fun _ => nextSatisfies_next
      (split_keeps_of_block packerBounded_keptByEmit packerBounded_keptByBlock packerBounded_keptBySplitter _ h)
  | cvConvert a bank size valid row preload =>
    rw [exec_cvConvert]
    exact nextSatisfies_whenReady h fun _ => nextSatisfies_next
      (convert_keeps_of_block packerBounded_keptByEmit packerBounded_keptByBlock packerBounded_keptBySplitter _ h)
  | _ => exact exec_keeps_of_emitsOnly packerBounded_keptByEmit (fun _ h => h) rfl h

/-- Settles O22. -/
theorem admittedOperationsKeepPackerBounded : Obligations.AdmittedOperationsKeepPackerBounded :=
  fun _ _ _ t h adm e => exec_packerBounded h adm t e

theorem runAdmitted_packerBounded {is : List Instr} {session after : Session} {s t : State} (h : packerBounded s)
    (run : runAdmitted is session s = some (after, t)) : packerBounded t := by
  induction is generalizing session s with
  | nil =>
    obtain rfl : s = t := congrArg Prod.snd (Option.some.inj run)
    exact h
  | cons i is ih =>
    rw [runAdmitted] at run
    split at run
    · rename_i adm
      cases e : exec i s with
      | next u =>
        rw [e] at run
        exact ih (exec_packerBounded h adm u e) run
      | fault f => cases f
      | refused why =>
        rw [e] at run
        cases run
    · cases run

/-- Settles O24. -/
theorem admittedRunsFitEighteenBits : Obligations.AdmittedRunsFitEighteenBits := by
  intro is s t after h run
  obtain ⟨-, (small : t.bitCounter ≤ 12), (bound : t.bits < 63 * 2 ^ t.bitCounter)⟩ :=
    (PackerSession.packerBounded_iff t).mp (runAdmitted_packerBounded h run)
  refine ⟨bound.trans_le ?_, by omega⟩
  calc 63 * 2 ^ t.bitCounter ≤ 63 * 2 ^ 12 := Nat.mul_le_mul_left _ (Nat.pow_le_pow_right (by decide) small)
    _ ≤ 2 ^ 18 := by decide

/-! ### The working registers -/

/-- Settles O54. -/
theorem resetRegistersInDomain : Obligations.ResetRegistersInDomain :=
  ⟨Nat.zero_le _, le_refl 1, fun _ => le_refl 0⟩

/-- The size and the working registers but `cur_addr` have these values, and at most `limit` bytes have been read. -/
def RegistersAt (size blockSize blkIdx limit : Nat) (t : State) : Prop :=
  t.size = size ∧ t.blockSize = blockSize ∧ t.blkIdx = blkIdx ∧ t.rdPtr ≤ limit

section Registers

variable {size B idx limit : Nat}

theorem registersAt_mono {limit' : Nat} {t : State} (h : RegistersAt size B idx limit t) (hl : limit ≤ limit') :
    RegistersAt size B idx limit' t :=
  ⟨h.1, h.2.1, h.2.2.1, h.2.2.2.trans hl⟩

theorem registersAt_keptByEmit : KeptByEmit (RegistersAt size B idx limit) := by
  intro b s h
  rcases emit_cases b s with ⟨-, e⟩ | ⟨rest, -, e⟩ | ⟨rest, -, e⟩ <;> rw [e] <;> exact h

theorem registersAt_keptByPacker : KeptByPacker (RegistersAt size B idx limit) :=
  fun _ _ _ h => h

theorem packByte_registersAt {s : State} (h : RegistersAt size B idx limit s) :
    RegistersAt size B idx (limit + 1) (packByte s) := by
  unfold packByte
  rcases readByteThen_cases (fun byte s => drain (packerFeed byte s)) s with ⟨b, -, -, e⟩ | ⟨-, e⟩ | ⟨-, e⟩ <;> rw [e]
  · obtain ⟨hsize, hB, hidx, hptr⟩ := h
    exact drain_keeps registersAt_keptByEmit registersAt_keptByPacker ⟨hsize, hB, hidx, Nat.succ_le_succ hptr⟩
  · exact registersAt_mono h (Nat.le_succ _)
  · exact registersAt_mono h (Nat.le_succ _)

theorem packPayload_registersAt (len : Nat) {s : State} (h : RegistersAt size B idx limit s) :
    RegistersAt size B idx (limit + len) (packPayload len s) := by
  induction len generalizing s limit with
  | zero => exact h
  | succ len ih =>
    rw [show limit + (len + 1) = limit + 1 + len by omega]
    exact andThen_keeps (registersAt_mono (packByte_registersAt h) (Nat.le_add_right _ _))
      fun _ _ => ih (packByte_registersAt h)

theorem writeBlock_registersAt (a : Addr) (bank : Bank) (len : Nat) (em : EndMarker) {s : State}
    (h : RegistersAt size B idx limit s) : RegistersAt size B idx (limit + len) (writeBlock a bank len em s) := by
  have opened : RegistersAt size B idx limit (emitSeq [start0, start1] s) := emitSeq_keeps registersAt_keptByEmit _ h
  have headed : RegistersAt size B idx limit (emitHeader a bank (emitSeq [start0, start1] s)) :=
    emitSeq_keeps registersAt_keptByEmit _ opened
  refine andThen_keeps (registersAt_mono opened (Nat.le_add_right _ _)) fun _ _ => ?_
  refine andThen_keeps (registersAt_mono headed (Nat.le_add_right _ _)) fun _ _ => ?_
  refine andThen_keeps (packPayload_registersAt len (registersAt_keptByPacker 0 0 _ headed)) fun _ h => ?_
  exact andThen_keeps (flush_keeps registersAt_keptByEmit registersAt_keptByPacker h) fun _ h =>
    registersAt_keptByEmit _ _ h

end Registers

section Split

variable {size B : Nat}

/-- Turn `i` of the splitter's loop reads at most the bytes of data block `i`. -/
theorem dataBlock_registersAt (covers : 39 * blockSizeOf size ≤ size) (bank : Bank) {row : BitVec 5}
    (hrow : rowLegal row = true) {i idx : Nat} (hi : i ≤ 39) {s : State}
    (h : RegistersAt size (blockSizeOf size) idx (Splitter.readBefore size i) s) :
    RegistersAt size (blockSizeOf size) i (Splitter.readBefore size (i + 1))
      (dataBlock bank (lastLenOf size).toNat row i s) := by
  obtain ⟨hsize, hB, -, hptr⟩ := h
  rw [Splitter.dataBlock_eq (a := 0#16) hB, Splitter.readBefore_succ (a := 0#16) covers hi]
  refine andThen_keeps (writeBlock_registersAt _ bank _ _ (s := { s with blkIdx := i }) ⟨hsize, hB, rfl, hptr⟩)
    fun _ h => ?_
  rw [Splitter.stepBlock_of_legal hrow]
  refine emitSeq_keeps registersAt_keptByEmit _ ?_
  rw [Splitter.advanceAddr]
  split
  · exact h
  · exact h

theorem dataBlocks_registersAt (covers : 39 * blockSizeOf size ≤ size) (bank : Bank) {row : BitVec 5}
    (hrow : rowLegal row = true) (count : Nat) {i idx : Nat} (hi : i + count = 40) (hidx : idx ≤ 40) {s : State}
    (h : RegistersAt size (blockSizeOf size) idx (Splitter.readBefore size i) s) :
    ∃ idx' ≤ 40, RegistersAt size (blockSizeOf size) idx' size
      (dataBlocks bank (lastLenOf size).toNat row count i s) := by
  induction count generalizing i idx s with
  | zero => exact ⟨idx, hidx, registersAt_mono h (Nat.min_le_right _ _)⟩
  | succ count ih =>
    have turn := dataBlock_registersAt covers bank hrow (show i ≤ 39 by omega) h
    exact andThen_keeps (P := fun t => ∃ idx' ≤ 40, RegistersAt size (blockSizeOf size) idx' size t)
      ⟨i, by omega, registersAt_mono turn (Nat.min_le_right _ _)⟩ fun _ _ => ih (by omega) (by omega) turn

theorem splitBody_registersAt (covers : 39 * blockSizeOf size ≤ size) (a : Addr) (bank : Bank) {row : BitVec 5}
    (hrow : rowLegal row = true) {idx : Nat} (hidx : idx ≤ 40) {s : State}
    (h : RegistersAt size (blockSizeOf size) idx 0 s) :
    ∃ idx' ≤ 40, RegistersAt size (blockSizeOf size) idx' size (splitBody a bank size row s) := by
  have started : RegistersAt size (blockSizeOf size) idx 0 (startBlock row { s with curAddr := a }) := by
    rw [Splitter.startBlock_of_legal hrow]
    exact emitSeq_keeps registersAt_keptByEmit _ h
  refine andThen_keeps (P := fun t => ∃ idx' ≤ 40, RegistersAt size (blockSizeOf size) idx' size t)
    ⟨idx, hidx, registersAt_mono started (Nat.zero_le _)⟩ fun _ _ => ?_
  refine andThen_keeps (P := fun t => ∃ idx' ≤ 40, RegistersAt size (blockSizeOf size) idx' size t)
    (dataBlocks_registersAt covers bank hrow 40 rfl hidx (registersAt_mono started (Nat.zero_le _))) fun _ h => ?_
  obtain ⟨-, -, hsize, hB, -, hptr⟩ := h
  exact ⟨40, le_refl _, writeBlock_registersAt (limit := size) a bank 0 .endProgram ⟨hsize, hB, rfl, hptr⟩⟩

end Split

theorem registersInDomain_of_registersAt {size B idx limit : Nat} {t : State} (h : RegistersAt size B idx limit t)
    (hB : 1 ≤ B) (hidx : idx ≤ 40) (hl : limit ≤ size) : registersInDomain t := by
  obtain ⟨hsize, rfl, rfl, hptr⟩ := h
  exact ⟨hidx, hB, fun _ => by rw [hsize]; exact hptr.trans hl⟩

theorem split_registersInDomain (standalone : Bool) {s : State} (hidx : s.blkIdx ≤ 40) (hB : 1 ≤ s.blockSize)
    (h0 : standalone = true ∨ s.rdPtr = 0) : registersInDomain (split standalone s) := by
  cases hrow : rowLegal s.row with
  | false =>
    rw [Splitter.split_of_illegal_row standalone hrow]
    exact ⟨hidx, hB, fun noArgument => absurd rfl noArgument⟩
  | true =>
    cases hadm : splitAdmitted s.startAddr s.size with
    | false =>
      rw [Splitter.split_of_not_admitted standalone hrow hadm]
      exact ⟨hidx, Nat.le_add_left 1 _, fun noArgument => absurd rfl noArgument⟩
    | true =>
      rw [Splitter.split_of_admitted standalone hrow hadm]
      have start : (if standalone then 0 else s.rdPtr) ≤ 0 := by
        rcases h0 with rfl | h0
        · rfl
        · rw [h0, ite_self]
      obtain ⟨idx, hidx, at_⟩ := splitBody_registersAt ((splitAdmitted_iff _ _).mp hadm).1 s.startAddr s.bank hrow hidx
        (s := { s with blockSize := blockSizeOf s.size, rdPtr := if standalone then 0 else s.rdPtr })
        ⟨rfl, rfl, rfl, start⟩
      exact registersInDomain_of_registersAt at_ (Nat.le_add_left 1 _) hidx (le_refl _)

theorem convert_registersInDomain (preload : List Byte) {s : State} (hidx : s.blkIdx ≤ 40) (hB : 1 ≤ s.blockSize) :
    registersInDomain (convert preload s) := by
  cases adm : convertAdmitted s with
  | false =>
    rw [Conversion.convert_of_not_admitted preload adm]
    exact ⟨hidx, hB, fun noArgument => absurd rfl noArgument⟩
  | true =>
    rw [Conversion.convert_of_admitted preload adm]
    have sent : RegistersAt s.size s.blockSize s.blkIdx 0 (emitSeq preload { s with rdPtr := 0 }) :=
      emitSeq_keeps registersAt_keptByEmit _ ⟨rfl, rfl, rfl, le_refl 0⟩
    refine andThen_keeps (registersInDomain_of_registersAt sent hB hidx (Nat.zero_le _)) fun _ _ => ?_
    have ⟨hsize, hB', hidx', hptr⟩ := sent
    split
    · exact split_registersInDomain false (by rwa [hidx']) (by rwa [hB']) (.inr (Nat.le_zero.mp hptr))
    · exact registersInDomain_of_registersAt (writeBlock_registersAt _ _ _ _ sent) hB hidx
        (by rw [hsize, Nat.zero_add])

/-- The domains with `rd_ptr` within the payload whatever exception stands: kept by all that leaves the registers
alone. -/
abbrev WithinPayload (t : State) : Prop :=
  t.blkIdx ≤ 40 ∧ 1 ≤ t.blockSize ∧ t.rdPtr ≤ t.size

theorem withinPayload_keptByEmit : KeptByEmit WithinPayload := by
  intro b s h
  rcases emit_cases b s with ⟨-, e⟩ | ⟨rest, -, e⟩ | ⟨rest, -, e⟩ <;> rw [e] <;> exact h

theorem exec_registersInDomain (i : Instr) {s : State} (hr : ready s) (h : registersInDomain s) :
    NextSatisfies registersInDomain (exec i s) := by
  have ⟨hidx, hB, hptr⟩ := h
  have within : WithinPayload s := ⟨hidx, hB, hptr (by rw [hr.1]; nofun)⟩
  cases i with
  | bwWriteBlock a bank len em =>
    rw [exec_bwWriteBlock]
    refine nextSatisfies_whenReady h fun _ => ?_
    split
    · exact nextSatisfies_refused _ _
    · exact nextSatisfies_next (registersInDomain_of_registersAt (writeBlock_registersAt _ _ _ _ (limit := 0)
        (s := loadBlockOperands a bank len s) ⟨rfl, rfl, rfl, le_refl 0⟩) hB hidx (Nat.le_of_eq (Nat.zero_add len)))
  | psSplit a bank size row =>
    rw [exec_psSplit]
    exact nextSatisfies_whenReady h fun _ => nextSatisfies_next
      (split_registersInDomain true (s := loadSplitOperands a bank size row s) hidx hB (.inl rfl))
  | cvConvert a bank size valid row preload =>
    rw [exec_cvConvert]
    exact nextSatisfies_whenReady h fun _ => nextSatisfies_next
      (convert_registersInDomain preload (s := loadConvertOperands a bank size valid row s) hidx hB)
  | _ =>
    intro t e
    obtain ⟨hidx, hB, hptr⟩ := exec_keeps_of_primitive withinPayload_keptByEmit (fun _ _ _ h => h) (fun _ h => h)
      (fun _ _ _ _ => Instr.noConfusion) (fun _ _ _ _ => Instr.noConfusion) (fun _ _ _ _ _ _ => Instr.noConfusion)
      within t e
    exact ⟨hidx, hB, fun _ => hptr⟩

/-- Settles O53. -/
theorem stepsKeepRegistersInDomain : Obligations.StepsKeepRegistersInDomain := by
  intro s t h e
  rcases step_cases e with ⟨-, rfl⟩ | rfl | ⟨hr, rest, i, e⟩
  · exact resetRegistersInDomain
  · exact h
  · exact exec_registersInDomain i (s := { s with commands := rest }) hr h t e

end Sys2Proof.Invariants
end

section
/-! Two runs side by side (R19, R26, R106): operations begun in states that agree where they read end in states that
agree there, having sent the same bytes. -/

namespace Sys2Proof.Noninterference

open Sys2Proof Sys2Proof.Machine Sys2Proof.Safety Sys2Proof.Reference Sys2Proof.Stepping Sys2Proof.BitPacker

/-! ### States that agree -/

/-- `s` and `t` agree on the source, the streams' answers and what has stopped them, and have sent the same bytes after
`before` and `before'`. With `packed` they agree on the accumulator too, with `placed` on the read pointer, with
`working` on the running address and the block size. -/
structure Alike (packed placed working : Prop) (before before' : List Byte) (s t : State) : Prop where
  out : ∃ bytes, s.out = before ++ bytes ∧ t.out = before' ++ bytes
  pay : s.pay = t.pay
  fault : s.fault = t.fault
  sinkAnswers : s.sinkAnswers = t.sinkAnswers
  sourceAnswers : s.sourceAnswers = t.sourceAnswers
  resetRequest : s.resetRequest = t.resetRequest
  packer : packed → s.bits = t.bits ∧ s.bitCounter = t.bitCounter
  rdPtr : placed → s.rdPtr = t.rdPtr
  registers : working → s.curAddr = t.curAddr ∧ s.blockSize = t.blockSize

/-- The two states hold the same operands. -/
def SameOperands (s t : State) : Prop :=
  s.startAddr = t.startAddr ∧ s.bank = t.bank ∧ s.size = t.size ∧ s.rowValid = t.rowValid ∧ s.row = t.row

theorem SameOperands.symm {s t : State} (h : SameOperands s t) : SameOperands t s := by
  obtain ⟨ha, hb, hsize, hvalid, hrow⟩ := h
  exact ⟨ha.symm, hb.symm, hsize.symm, hvalid.symm, hrow.symm⟩

theorem SameOperands.trans {s t u : State} (h : SameOperands s t) (h' : SameOperands t u) : SameOperands s u := by
  obtain ⟨ha, hb, hsize, hvalid, hrow⟩ := h
  obtain ⟨ha', hb', hsize', hvalid', hrow'⟩ := h'
  exact ⟨ha.trans ha', hb.trans hb', hsize.trans hsize', hvalid.trans hvalid', hrow.trans hrow'⟩

theorem sameOperands_emitSeq (bytes : List Byte) (s : State) : SameOperands s (emitSeq bytes s) := by
  obtain ⟨ha, hb, hsize, hvalid, hrow, -⟩ := emitSeq_keeps (registersKept_keptByEmit s) bytes (registersKept_refl s)
  exact ⟨ha.symm, hb.symm, hsize.symm, hvalid.symm, hrow.symm⟩

namespace Alike

variable {p q w : Prop} {before before' : List Byte} {s t : State}

theorem ready_iff (h : Alike p q w before before' s t) : ready s ↔ ready t := by
  rw [ready, ready, h.fault, h.resetRequest]

theorem weaken {p' q' w' : Prop} (h : Alike p q w before before' s t) (hp : p' → p) (hq : q' → q) (hw : w' → w) :
    Alike p' q' w' before before' s t :=
  { h with packer := h.packer ∘ hp, rdPtr := h.rdPtr ∘ hq, registers := h.registers ∘ hw }

theorem andThen {f g : State → State} (h : Alike p q w before before' s t)
    (next : Alike p q w before before' (f s) (g t)) :
    Alike p q w before before' (Machine.andThen s f) (Machine.andThen t g) := by
  by_cases hs : ready s
  · rwa [andThen_of_ready hs, andThen_of_ready (h.ready_iff.mp hs)]
  · rwa [andThen_of_not_ready hs, andThen_of_not_ready (mt h.ready_iff.mpr hs)]

theorem raise (e : Exception) (h : Alike p q w before before' s t) :
    Alike p q w before before' (raise e s) (raise e t) :=
  { h with fault := rfl }

theorem emit (b : Byte) (h : Alike p q w before before' s t) :
    Alike p q w before before' (emit b s) (emit b t) := by
  obtain ⟨bytes, hs, ht⟩ := h.out
  have sent : ∃ bytes, s.out ++ [b] = before ++ bytes ∧ t.out ++ [b] = before' ++ bytes :=
    ⟨bytes ++ [b], by rw [hs, List.append_assoc], by rw [ht, List.append_assoc]⟩
  unfold Machine.emit
  rw [← h.sinkAnswers]
  split
  · exact { h with out := sent, sinkAnswers := rfl }
  · exact { h with out := sent, sinkAnswers := rfl }
  · exact { h with fault := rfl, sinkAnswers := rfl }
  · exact { h with resetRequest := rfl, sinkAnswers := rfl }

theorem emitSeq (bs : List Byte) (h : Alike p q w before before' s t) :
    Alike p q w before before' (emitSeq bs s) (emitSeq bs t) := by
  induction bs generalizing s t with
  | nil => exact h
  | cons b bs ih => exact (h.emit b).andThen (ih (h.emit b))

/-- From here on the accumulators agree. -/
theorem withPacker (bits bitCounter : Nat) (h : Alike p q w before before' s t) :
    Alike True q w before before' { s with bits := bits, bitCounter := bitCounter }
      { t with bits := bits, bitCounter := bitCounter } :=
  { h with packer := fun _ => ⟨rfl, rfl⟩ }

theorem packerFeed (b : Byte) (h : Alike True q w before before' s t) :
    Alike True q w before before' (packerFeed b s) (packerFeed b t) := by
  obtain ⟨hb, hc⟩ := h.packer trivial
  unfold Machine.packerFeed
  rw [hb, hc]
  exact h.withPacker _ _

theorem extractOne (h : Alike True q w before before' s t) :
    Alike True q w before before' (extractOne s) (extractOne t) := by
  obtain ⟨hb, hc⟩ := h.packer trivial
  unfold Machine.extractOne
  rw [hb, hc]
  exact (h.withPacker _ _).emit _

theorem extractWhile (go : Nat → Bool) (fuel : Nat) (h : Alike True q w before before' s t) :
    Alike True q w before before' (extractWhile go fuel s) (extractWhile go fuel t) := by
  induction fuel generalizing s t with
  | zero => exact h
  | succ fuel ih =>
    rw [BitPacker.extractWhile, BitPacker.extractWhile, (h.packer trivial).2]
    split
    · exact h.extractOne.andThen (ih h.extractOne)
    · exact h

theorem drain (h : Alike True q w before before' s t) : Alike True q w before before' (drain s) (drain t) := by
  rw [Machine.drain, Machine.drain, drainLoop_eq_extractWhile, (h.packer trivial).2]
  exact h.extractWhile _ _

theorem flush (h : Alike True q w before before' s t) : Alike True q w before before' (flush s) (flush t) := by
  rw [Machine.flush, Machine.flush, flushLoop_eq_extractWhile, (h.packer trivial).2]
  exact h.extractWhile _ _

theorem packByte (h : Alike True True w before before' s t) :
    Alike True True w before before' (packByte s) (packByte t) := by
  have position := h.rdPtr trivial
  have used : s.sourceAnswers.drop 1 = t.sourceAnswers.drop 1 := congrArg (List.drop 1) h.sourceAnswers
  unfold Machine.packByte
  rcases readByteThen_cases (fun byte s => Machine.drain (Machine.packerFeed byte s)) s with
    ⟨b, hb, accepts, e⟩ | ⟨stops, e⟩ | ⟨reset, e⟩ <;> rw [e]
  · rw [h.pay, position] at hb
    rw [h.sourceAnswers] at accepts
    rw [Streams.readByteThen_of_delivers _ hb accepts]
    have read : Alike True True w before before'
        { s with rdPtr := s.rdPtr + 1, sourceAnswers := s.sourceAnswers.drop 1 }
        { t with rdPtr := t.rdPtr + 1, sourceAnswers := t.sourceAnswers.drop 1 } :=
      { h with sourceAnswers := used, rdPtr := fun _ => congrArg (· + 1) position }
    exact (read.packerFeed b).drain
  · rw [h.pay, position, h.sourceAnswers] at stops
    rw [Blocks.readByteThen_of_stops _ stops]
    exact { h with fault := rfl, sourceAnswers := used }
  · rw [h.sourceAnswers] at reset
    rw [Blocks.readByteThen_of_reset _ reset]
    exact { h with resetRequest := rfl, sourceAnswers := used }

theorem packPayload (len : Nat) (h : Alike True True w before before' s t) :
    Alike True True w before before' (packPayload len s) (packPayload len t) := by
  induction len generalizing s t with
  | zero => exact h
  | succ len ih => exact h.packByte.andThen (ih h.packByte)

theorem openBlock (a : Addr) (bank : Bank) (h : Alike p q w before before' s t) :
    Alike p q w before before' (Blocks.openBlock a bank s) (Blocks.openBlock a bank t) :=
  (h.emitSeq _).andThen ((h.emitSeq _).emitSeq _)

theorem packBlock (len : Nat) (h : Alike p True w before before' s t) :
    Alike True True w before before' (Blocks.packBlock len s) (Blocks.packBlock len t) :=
  ((h.withPacker 0 0).packPayload len).andThen ((h.withPacker 0 0).packPayload len).flush

/-- A block packs its payload in a fresh packer, so what the packer held does not show. -/
theorem writeBlock (a : Addr) (bank : Bank) (len : Nat) (em : EndMarker) (h : Alike p True w before before' s t) :
    Alike p True w before before' (writeBlock a bank len em s) (writeBlock a bank len em t) := by
  rw [Blocks.writeBlock_eq, Blocks.writeBlock_eq]
  have packed := (h.openBlock a bank).packBlock len
  exact (h.openBlock a bank).andThen ((packed.andThen (packed.emit _)).weaken (fun _ => trivial) id id)

theorem startBlock (row : BitVec 5) (h : Alike p q w before before' s t) :
    Alike p q w before before' (startBlock row s) (startBlock row t) := by
  unfold Machine.startBlock
  split
  · exact h.emitSeq _
  · exact h.raise _

theorem stepBlock (row : BitVec 5) (col : BitVec 6) (h : Alike p q w before before' s t) :
    Alike p q w before before' (stepBlock row col s) (stepBlock row col t) := by
  unfold Machine.stepBlock
  split
  · exact h.emitSeq _
  · exact h.raise _

theorem writeBlock_of_eq {a a' : Addr} {len len' : Nat} (bank : Bank) (em : EndMarker)
    (h : Alike p True w before before' s t) (ha : a = a') (hlen : len = len') :
    Alike p True w before before' (Machine.writeBlock a bank len em s) (Machine.writeBlock a' bank len' em t) := by
  subst ha hlen
  exact h.writeBlock _ _ _ _

theorem dataBlock (bank : Bank) (lastLen : Nat) (row : BitVec 5) (i : Nat) (h : Alike p True True before before' s t) :
    Alike p True True before before' (dataBlock bank lastLen row i s) (dataBlock bank lastLen row i t) := by
  have turn : Alike p True True before before' { s with blkIdx := i } { t with blkIdx := i } := { h with }
  obtain ⟨hcur, hsize⟩ := turn.registers trivial
  unfold Machine.dataBlock
  dsimp only
  split
  · have block := turn.writeBlock_of_eq bank .endDataBlock hcur (rfl : lastLen = lastLen)
    exact block.andThen (block.stepBlock _ _)
  · have block := turn.writeBlock_of_eq bank .endDataBlock hcur hsize
    obtain ⟨bcur, bsize⟩ := block.registers trivial
    refine block.andThen (Alike.stepBlock _ _ ?_)
    exact { block with registers := fun _ => ⟨congrArg₂ (fun a n => a + BitVec.ofNat 16 n) bcur bsize, bsize⟩ }

theorem dataBlocks (bank : Bank) (lastLen : Nat) (row : BitVec 5) (count i : Nat)
    (h : Alike p True True before before' s t) :
    Alike p True True before before' (dataBlocks bank lastLen row count i s)
      (dataBlocks bank lastLen row count i t) := by
  induction count generalizing i s t with
  | zero => exact h
  | succ count ih => exact (h.dataBlock _ _ _ _).andThen (ih _ (h.dataBlock _ _ _ _))

/-- The splitter sets its working registers itself. -/
theorem splitBody (a : Addr) (bank : Bank) (size : Nat) (row : BitVec 5) (h : Alike p True w before before' s t)
    (hB : s.blockSize = t.blockSize) :
    Alike p True True before before' (splitBody a bank size row s) (splitBody a bank size row t) := by
  have entered : Alike p True True before before' { s with curAddr := a } { t with curAddr := a } :=
    { h with registers := fun _ => ⟨rfl, hB⟩ }
  have started := entered.startBlock row
  have blocks := started.dataBlocks bank (lastLenOf size).toNat row 40 0
  refine started.andThen (blocks.andThen (Alike.writeBlock _ _ _ _ ?_))
  exact { blocks with }

theorem splitBody_of_eq {a a' : Addr} {bank bank' : Bank} {size size' : Nat} {row row' : BitVec 5}
    (h : Alike p True w before before' s t) (hB : s.blockSize = t.blockSize) (ha : a = a') (hb : bank = bank')
    (hsize : size = size') (hrow : row = row') :
    Alike p True True before before' (Machine.splitBody a bank size row s)
      (Machine.splitBody a' bank' size' row' t) := by
  subst ha hb hsize hrow
  exact h.splitBody _ _ _ _ hB

/-- PS.SPLIT on the same operands; a standalone one sets the read pointer itself. -/
theorem split (standalone : Bool) (h : Alike p q False before before' s t) (hq : standalone = true ∨ q)
    (ha : s.startAddr = t.startAddr) (hb : s.bank = t.bank) (hsize : s.size = t.size) (hrow : s.row = t.row) :
    Alike p q False before before' (split standalone s) (split standalone t) := by
  cases legal : rowLegal s.row with
  | false =>
    rw [Splitter.split_of_illegal_row standalone legal, Splitter.split_of_illegal_row standalone (hrow ▸ legal)]
    exact h.raise _
  | true =>
    cases adm : splitAdmitted s.startAddr s.size with
    | false =>
      rw [Splitter.split_of_not_admitted standalone legal adm,
        Splitter.split_of_not_admitted standalone (hrow ▸ legal) (ha ▸ hsize ▸ adm)]
      exact Alike.raise _ { h with registers := False.elim }
    | true =>
      rw [Splitter.split_of_admitted standalone legal adm,
        Splitter.split_of_admitted standalone (hrow ▸ legal) (ha ▸ hsize ▸ adm)]
      have position : (if standalone then 0 else s.rdPtr) = if standalone then 0 else t.rdPtr := by
        rcases hq with rfl | hq
        · rfl
        · rw [h.rdPtr hq]
      have entered : Alike p True False before before'
          { s with blockSize := blockSizeOf s.size, rdPtr := if standalone then 0 else s.rdPtr }
          { t with blockSize := blockSizeOf t.size, rdPtr := if standalone then 0 else t.rdPtr } :=
        { h with rdPtr := fun _ => position, registers := False.elim }
      exact (entered.splitBody_of_eq (congrArg blockSizeOf hsize) ha hb hsize hrow).weaken id (fun _ => trivial)
        False.elim

/-- CV.CONVERT on the same operands. -/
theorem convert (preload : List Byte) (h : Alike p q False before before' s t) (ho : SameOperands s t) :
    Alike p q False before before' (convert preload s) (convert preload t) := by
  have ⟨ha, hb, hsize, hvalid, hrow⟩ := ho
  have same : convertAdmitted s = convertAdmitted t := by
    simp only [convertAdmitted, ha, hsize, hvalid, hrow]
  cases adm : convertAdmitted s with
  | false =>
    rw [Conversion.convert_of_not_admitted preload adm, Conversion.convert_of_not_admitted preload (same ▸ adm)]
    exact h.raise _
  | true =>
    rw [Conversion.convert_of_admitted preload adm, Conversion.convert_of_admitted preload (same ▸ adm)]
    have sent : Alike p True False before before' (Machine.emitSeq preload { s with rdPtr := 0 })
        (Machine.emitSeq preload { t with rdPtr := 0 }) :=
      Alike.emitSeq preload { h with rdPtr := fun _ => rfl }
    have operands := ((sameOperands_emitSeq preload { s with rdPtr := 0 }).symm.trans ho).trans
      (sameOperands_emitSeq preload { t with rdPtr := 0 })
    refine (sent.andThen ?_).weaken id (fun _ => trivial) id
    obtain ⟨ua, ub, usize, uvalid, urow⟩ := operands
    split
    · rename_i valid
      rw [if_pos (uvalid ▸ valid)]
      exact sent.split false (.inr trivial) ua ub usize urow
    · rename_i invalid
      rw [if_neg (uvalid ▸ invalid), ← ub]
      exact sent.writeBlock_of_eq _ _ ua usize

end Alike

/-! ### Outcomes side by side -/

/-- Two next states with `R`, or the same refusal. -/
def OutcomesRelated (R : State → State → Prop) :
    Host.Outcome State Fault Refusal → Host.Outcome State Fault Refusal → Prop
  | .next s, .next t => R s t
  | .refused a, .refused b => a = b
  | _, _ => False

section Outcomes

variable {p q w : Prop} {before before' : List Byte} {s t : State}

theorem outcomesRelated_whenReady {f g : State → Host.Outcome State Fault Refusal}
    (h : Alike p q w before before' s t)
    (next : OutcomesRelated (Alike p q w before before') (f s) (g t)) :
    OutcomesRelated (Alike p q w before before') (whenReady s f) (whenReady t g) := by
  by_cases hs : ready s
  · rwa [whenReady_of_ready hs, whenReady_of_ready (h.ready_iff.mp hs)]
  · rwa [whenReady_of_not_ready hs, whenReady_of_not_ready (mt h.ready_iff.mpr hs)]

theorem exec_bwWriteBlock_alike (h : Alike p q False before before' s t) (a : Addr) (bank : Bank) (len : Nat)
    (em : Byte) :
    OutcomesRelated (Alike p q False before before') (exec (.bwWriteBlock a bank len em) s)
      (exec (.bwWriteBlock a bank len em) t) := by
  rw [exec_bwWriteBlock, exec_bwWriteBlock]
  refine outcomesRelated_whenReady h ?_
  cases endMarkerOfByte em with
  | none => exact rfl
  | some marker =>
    have loaded : Alike p True False before before' (loadBlockOperands a bank len s) (loadBlockOperands a bank len t) :=
      { h with rdPtr := fun _ => rfl }
    exact (loaded.writeBlock a bank len marker).weaken id (fun _ => trivial) id

theorem exec_psSplit_alike (h : Alike p q False before before' s t) (a : Addr) (bank : Bank) (size : Nat)
    (row : BitVec 5) :
    OutcomesRelated (Alike p q False before before') (exec (.psSplit a bank size row) s)
      (exec (.psSplit a bank size row) t) := by
  rw [exec_psSplit, exec_psSplit]
  exact outcomesRelated_whenReady h (Alike.split true { h with } (.inl rfl) rfl rfl rfl rfl)

theorem exec_cvConvert_alike (h : Alike p q False before before' s t) (a : Addr) (bank : Bank) (size : Nat)
    (valid : Bool) (row : BitVec 5) (preload : List Byte) :
    OutcomesRelated (Alike p q False before before') (exec (.cvConvert a bank size valid row preload) s)
      (exec (.cvConvert a bank size valid row preload) t) := by
  rw [exec_cvConvert, exec_cvConvert]
  exact outcomesRelated_whenReady h (Alike.convert preload { h with } ⟨rfl, rfl, rfl, rfl, rfl⟩)

end Outcomes

/-- Settles O49: the composites set packer and read pointer themselves. -/
theorem compositesStartFresh : Obligations.CompositesStartFresh := by
  intro a bank size em rowValid row preload s t hs ht hpay hsink hsource hem i hi
  have start : Alike False False False s.out t.out s t :=
    { out := ⟨[], (List.append_nil _).symm, (List.append_nil _).symm⟩
      pay := hpay
      fault := hs.1.trans ht.1.symm
      sinkAnswers := hsink
      sourceAnswers := hsource
      resetRequest := hs.2.trans ht.2.symm
      packer := False.elim
      rdPtr := False.elim
      registers := False.elim }
  have conclude : ∀ {s' t'}, exec i s = .next s' → exec i t = .next t' →
      OutcomesRelated (Alike False False False s.out t.out) (exec i s) (exec i t) →
      ∃ s' t' bytes, exec i s = .next s' ∧ exec i t = .next t' ∧ s'.out = s.out ++ bytes ∧
        t'.out = t.out ++ bytes ∧ s'.fault = t'.fault ∧ s'.resetRequest = t'.resetRequest := by
    intro s' t' es et related
    rw [es, et] at related
    obtain ⟨bytes, outs, outt⟩ := related.out
    exact ⟨s', t', bytes, es, et, outs, outt, related.fault, related.resetRequest⟩
  simp only [List.mem_cons, List.not_mem_nil, or_false] at hi
  rcases hi with rfl | rfl | rfl
  · obtain ⟨_, -, es⟩ := Blocks.exec_bwWriteBlock_of_marker hs a bank size hem
    obtain ⟨_, -, et⟩ := Blocks.exec_bwWriteBlock_of_marker ht a bank size hem
    exact conclude es et (exec_bwWriteBlock_alike start a bank size em)
  · exact conclude (Splitter.exec_psSplit_of_ready hs a bank size row)
      (Splitter.exec_psSplit_of_ready ht a bank size row) (exec_psSplit_alike start a bank size row)
  · exact conclude (Conversion.exec_cvConvert_of_ready hs a bank size rowValid row preload)
      (Conversion.exec_cvConvert_of_ready ht a bank size rowValid row preload)
      (exec_cvConvert_alike start a bank size rowValid row preload)

/-- Outside the operand and working registers nothing tells the two runs of an instruction apart. -/
theorem exec_alike {before before' : List Byte} (i : Instr) {s t : State}
    (h : Alike True True False before before' s t) :
    OutcomesRelated (Alike True True False before before') (exec i s) (exec i t) := by
  induction i using instr_classes with
  | wire i hw =>
    obtain ⟨legal, b, why, e⟩ := hw
    rw [e, e]
    refine outcomesRelated_whenReady h ?_
    split
    · exact h.emit b
    · exact rfl
  | reserved i hr _ =>
    obtain ⟨why, e⟩ := hr
    rw [e, e]
    exact rfl
  | pkReset =>
    rw [exec_pkReset, exec_pkReset]
    exact outcomesRelated_whenReady h (h.withPacker 0 0)
  | pkFeed b =>
    rw [exec_pkFeed, exec_pkFeed]
    exact outcomesRelated_whenReady h (h.packerFeed b)
  | pkExtract =>
    rw [exec_pkExtract, exec_pkExtract]
    refine outcomesRelated_whenReady h ?_
    rw [(h.packer trivial).2]
    split
    · exact h.extractOne
    · exact rfl
  | pkDrain =>
    rw [exec_pkDrain, exec_pkDrain]
    exact h.andThen h.drain
  | pkFlush =>
    rw [exec_pkFlush, exec_pkFlush]
    exact h.andThen h.flush
  | aeEncode a bank =>
    rw [exec_aeEncode, exec_aeEncode]
    exact outcomesRelated_whenReady h (h.emitSeq _)
  | bwWriteBlock a bank len em => exact exec_bwWriteBlock_alike h a bank len em
  | psStartBlock row =>
    rw [exec_psStartBlock, exec_psStartBlock]
    exact outcomesRelated_whenReady h (h.startBlock row)
  | psStepBlock row col =>
    rw [exec_psStepBlock, exec_psStepBlock]
    refine outcomesRelated_whenReady h ?_
    split
    · exact rfl
    · exact h.stepBlock row col
  | psSplit a bank size row => exact exec_psSplit_alike h a bank size row
  | cvConvert a bank size valid row preload => exact exec_cvConvert_alike h a bank size valid row preload

/-- Settles O55: each instruction keeps two states alike that differ in those registers only. -/
theorem unloadedRegistersNeverRead : Obligations.UnloadedRegistersNeverRead := by
  intro i s t ⟨hbits, hcount, hptr, hout, hpay, hfault, hcommands, hsink, hsource, hreset⟩
  have start : Alike True True False s.out t.out s t :=
    { out := ⟨[], (List.append_nil _).symm, (List.append_nil _).symm⟩
      pay := hpay
      fault := hfault
      sinkAnswers := hsink
      sourceAnswers := hsource
      resetRequest := hreset
      packer := fun _ => ⟨hbits, hcount⟩
      rdPtr := fun _ => hptr
      registers := False.elim }
  have related := exec_alike i start
  match es : exec i s, et : exec i t with
  | .next s', .next t' =>
    rw [es, et] at related
    obtain ⟨bytes, outs, outt⟩ := related.out
    obtain ⟨bits, count⟩ := related.packer trivial
    obtain ⟨-, coms⟩ := exec_environment i s s' es
    obtain ⟨-, comt⟩ := exec_environment i t t' et
    exact ⟨bits, count, related.rdPtr trivial, by rw [outs, outt, hout], related.pay, related.fault,
      by rw [coms, comt, hcommands], related.sinkAnswers, related.sourceAnswers, related.resetRequest⟩
  | .refused _, .refused _ =>
    rw [es, et] at related
    exact related
  | .next _, .refused _ | .refused _, .next _ =>
    rw [es, et] at related
    exact related.elim

end Sys2Proof.Noninterference
end
